-- ==== Sys2Proof/Word.lean ====
section
/-! DEFINITION. The bit-vector widths of the spec (00_scope.md R7): byte, word, long, and the 24-bit bus address. -/

namespace Sys2Proof

/-- A byte, 8 bits (R7). -/
abbrev Byte := BitVec 8

/-- A word, 16 bits (R7). -/
abbrev Word := BitVec 16

/-- A long, 32 bits (R7). -/
abbrev Long := BitVec 32

/-- A primary-bus address after reduction to bits 23:0 (R9, D3). -/
abbrev Addr := BitVec 24

end Sys2Proof
end

