-- ==== Sys2Proof/Config.lean ====
section
/-! DEFINITION. What is fixed for one machine (00_scope.md R6): the OPEN parameters of the spec, as plain data that the
state carries and no step writes (log 7, log 8), and the free values (R12), which have no body (log 4). -/

namespace Sys2Proof

/-- REGION (R444): NTSC or PAL, fixed for the model's life. -/
inductive TvRegion where
  | ntsc
  | pal
  deriving DecidableEq, Repr

namespace Config

/-- The OPEN parameters of R6. `packOverrides` lists the colour words whose PackColor differs from D42's default, so that
the values of this type are all the total functions from 16-bit to 32-bit words (log 8). -/
structure Params where
  /-- SOUND_RAM_MASK (D8). -/
  soundRamMask : Word
  /-- VSRAM_MASK (D26). -/
  vsramMask : Word
  /-- REGION (R444). -/
  region : TvRegion
  /-- CPU_ACTIVE_CYCLES (D46). -/
  cpuActiveCycles : Nat
  /-- CPU_HBLANK_CYCLES (D46). -/
  cpuHblankCycles : Nat
  /-- CPU_VBLANK_ENTRY_CYCLES (D46). -/
  cpuVblankEntryCycles : Nat
  /-- SOUND_DIVISOR (D46). -/
  soundDivisor : Nat
  /-- Where PackColor (D42) differs from its default. -/
  packOverrides : List (Word × Long)
  deriving DecidableEq, Repr

/-- The spec's defaults "for running examples" (R6; D8, D26, D42, D46), NTSC as in 95_test_vectors.md section 0.
DESIGN CHOICE (log 7): the values the reset state carries; statements hold for all values. -/
def Params.default : Params where
  soundRamMask := 0x1FFF
  vsramMask := 0x07FF
  region := .ntsc
  cpuActiveCycles := 404
  cpuHblankCycles := 84
  cpuVblankEntryCycles := 36
  soundDivisor := 2
  packOverrides := []

/-- `draw(T)` for a T of `w` bits (R12): the value of the n-th draw. It has no body, so nothing can be proved of its values. -/
opaque freeBits (w : Nat) : Nat → BitVec w

end Config

end Sys2Proof
end

