-- ==== Sys2Proof/Syntax.lean ====
section
/-! DEFINITION. The instructions: one constructor of `Instr` per row of spec/opcode_table.json, with the operands the
row's rule gives it, and the two smaller types of transactions that the CPUs issue inside a frame. -/

namespace Sys2Proof

/-- The regions an address decodes to (40_bus.md R200). -/
inductive Region where
  | rom | romMirror | soundRam | synth | soundBank | soundVdp | soundRomView | io | busReq | soundReset | vdp | ram | unmapped
  deriving DecidableEq, Repr

/-- One access of width `w`: a read, or a write of a value. -/
inductive Access (w : Nat) where
  | read
  | write (v : BitVec w)
  deriving DecidableEq, Repr

/-- The transactions the primary CPU issues (R214-R219). Only bits 23:0 of an address are decoded (R200, D3; log 16). -/
inductive BusOp where
  | read8 (a : Long)
  | read16 (a : Long)
  | read32 (a : Long)
  | write8 (a : Long) (v : Byte)
  | write16 (a : Long) (v : Word)
  | write32 (a : Long) (v : Long)
  deriving DecidableEq, Repr

/-- The transactions the sound CPU issues (R220, R221). -/
inductive SoundOp where
  | read8 (z : Word)
  | write8 (z : Word) (b : Byte)
  deriving DecidableEq, Repr

/-- The rows of spec/opcode_table.json, in its order. Bits the spec says are ignored are kept as operands (`x`, `y`), so
that no bit of an encoding is dropped. -/
inductive Instr where
  -- bus_op
  | read8 (a : Long)
  | read16 (a : Long)
  | read32 (a : Long)
  | write8 (a : Long) (v : Byte)
  | write16 (a : Long) (v : Word)
  | write32 (a : Long) (v : Long)
  -- sound_op
  | sread8 (z : Word)
  | swrite8 (z : Word) (b : Byte)
  -- bus_op, the DMA engine's
  | dmaSourceRead16 (src : Addr)
  -- addr24: a byte access through the region's handlers
  | regionRom (a : Addr) (acc : Access 8)
  | regionRommirror (a : Addr) (acc : Access 8)
  | regionRommirror2 (a : Addr) (acc : Access 8)
  | regionSoundram (a : Addr) (acc : Access 8)
  | regionSynth (a : Addr) (acc : Access 8)
  | regionSoundbank (a : Addr) (acc : Access 8)
  | regionSoundvdp (a : Addr) (acc : Access 8)
  | regionUnmapped (a : Addr) (acc : Access 8)
  | regionSoundromview (a : Addr) (acc : Access 8)
  | regionIo (a : Addr) (acc : Access 8)
  | regionBusreq (a : Addr) (acc : Access 8)
  | regionSoundreset (a : Addr) (acc : Access 8)
  | regionUnmapped2 (a : Addr) (acc : Access 8)
  | regionVdp (a : Addr) (acc : Access 8)
  | regionRam (a : Addr) (acc : Access 8)
  | regionUnmapped3 (a : Addr) (acc : Access 8)
  -- vdp_port: port dispatch of a word access
  | vdpDataPort (off : BitVec 5) (acc : Access 16)
  | vdpControlPort (off : BitVec 5) (acc : Access 16)
  | vdpHvPort (off : BitVec 5) (acc : Access 16)
  | vdpPsgPort (off : BitVec 5) (acc : Access 16)
  | vdpUnusedPort (off : BitVec 5) (acc : Access 16)
  -- ctrl_word
  | ctrlRegwrite (x : BitVec 1) (r : BitVec 5) (v : Byte)
  | ctrlCmd1 (cd10 : BitVec 2) (a : BitVec 14)
  | ctrlCmd2 (x : Byte) (cd52 : BitVec 4) (y : BitVec 2) (a : BitVec 2)
  -- code6: data-port accesses, the row selected by the access code
  | dataWriteVram (v : Word)
  | dataWriteCram (v : Word)
  | dataWriteVsram (v : Word)
  | dataWriteNotarget (v : Word)
  | dataWriteReadcode (v : Word)
  | dataReadVram
  | dataReadVsram
  | dataReadCram
  | dataReadVram8
  | dataReadInvalid
  -- vdp_port: the accesses a port offset leads to
  | statusRead (off : BitVec 5)
  | hvRead (off : BitVec 5)
  | hvWrite (off : BitVec 5) (v : Word)
  | psgWrite (off : BitVec 5) (v : Word)
  | psgRead (off : BitVec 5)
  | vdpUnused (off : BitVec 5) (acc : Access 16)
  | vdpByteAccess (off : BitVec 5) (acc : Access 8)
  | vdpLongAccess (off : BitVec 5) (acc : Access 32)
  -- dma_mode
  | dma68k
  | dmaFillArm
  | dmaFillFire (v : Word)
  | dmaCopy
  | dmaDisabled
  -- host
  | renderLine (y : Byte)
  | runFrame
  | reset
  | loadCartridge (blob : List Byte)
  deriving DecidableEq, Repr

end Sys2Proof
end

