-- ==== Sys2Proof/Decode.lean ====
section
/-! DEFINITION. The encodings of spec/30_encoding.md: the address decoder, the port, control-word, access-code and DMA
selections; the decoder of a request (total, rejecting by name) and the encoder. The request format itself, a tag byte
and then the operands with their least significant byte first, is the model's (log 2): the spec gives the transactions no
bits, only their kind, width and operands. -/

namespace Sys2Proof

/-! ### Byte-order helpers of the request format -/

/-- Two bytes, least significant first. -/
def le16 (b0 b1 : Byte) : Word := b1 ++ b0

/-- Three bytes, least significant first. -/
def le24 (b0 b1 b2 : Byte) : Addr := b2 ++ (b1 ++ b0)

/-- Four bytes, least significant first. -/
def le32 (b0 b1 b2 b3 : Byte) : Long := b3 ++ (b2 ++ (b1 ++ b0))

/-- The bytes of a word, least significant first. -/
def bytes16 (v : Word) : List Byte := [v.extractLsb' 0 8, v.extractLsb' 8 8]

/-- The bytes of a 24-bit address, least significant first. -/
def bytes24 (v : Addr) : List Byte := [v.extractLsb' 0 8, v.extractLsb' 8 8, v.extractLsb' 16 8]

/-- The bytes of a long, least significant first. -/
def bytes32 (v : Long) : List Byte :=
  [v.extractLsb' 0 8, v.extractLsb' 8 8, v.extractLsb' 16 8, v.extractLsb' 24 8]

/-! ### The address decoder (R148, R200) -/

/-- The sixteen rows of R148's table. -/
inductive AddrRow where
  | rom | rommirror | rommirror2 | soundram | synth | soundbank | soundvdp | unmapped | soundromview
  | io | busreq | soundreset | unmapped2 | vdp | ram | unmapped3
  deriving DecidableEq, Repr

/-- One row of R148: the row matches an address `a` when `a & mask = pat`. -/
structure AddrPattern where
  row : AddrRow
  pat : Addr
  mask : Addr
  deriving DecidableEq, Repr

/-- R148's table, in its order. -/
def addrTable : List AddrPattern :=
  [ ⟨.rom, 0x000000, 0xC00000⟩, ⟨.rommirror, 0x400000, 0xC00000⟩, ⟨.rommirror2, 0x800000, 0xE00000⟩,
    ⟨.soundram, 0xA00000, 0xFFC000⟩, ⟨.synth, 0xA04000, 0xFFE000⟩, ⟨.soundbank, 0xA06000, 0xFFFF00⟩,
    ⟨.soundvdp, 0xA07F00, 0xFFFF00⟩, ⟨.unmapped, 0xA06000, 0xFFE000⟩, ⟨.soundromview, 0xA08000, 0xFF8000⟩,
    ⟨.io, 0xA10000, 0xFFFFE0⟩, ⟨.busreq, 0xA11100, 0xFFFF00⟩, ⟨.soundreset, 0xA11200, 0xFFFF00⟩,
    ⟨.unmapped2, 0xA10000, 0xFF0000⟩, ⟨.vdp, 0xC00000, 0xE00000⟩, ⟨.ram, 0xE00000, 0xE00000⟩,
    ⟨.unmapped3, 0x000000, 0x000000⟩ ]

/-- The first row of R148's table that matches ("Rows are tried in order"); the last row matches every address. -/
def addrRow (a : Addr) : AddrRow :=
  match addrTable.find? (fun p => a &&& p.mask == p.pat) with
  | some p => p.row
  | none => .unmapped3

/-- The region column of R148. -/
def AddrRow.region : AddrRow → Region
  | .rom => .rom
  | .rommirror | .rommirror2 => .romMirror
  | .soundram => .soundRam
  | .synth => .synth
  | .soundbank => .soundBank
  | .soundvdp => .soundVdp
  | .soundromview => .soundRomView
  | .io => .io
  | .busreq => .busReq
  | .soundreset => .soundReset
  | .vdp => .vdp
  | .ram => .ram
  | .unmapped | .unmapped2 | .unmapped3 => .unmapped

/-- `classify` (R200): defined for any natural number, only bits 23:0 are decoded. -/
def classify (a : Nat) : Region :=
  let a24 := a % 0x1000000
  let top := a24 / 0x10000
  let lo := a24 % 0x10000
  if top ≤ 0x3F then .rom
  else if top ≤ 0x9F then .romMirror
  else if top = 0xA0 then
    if lo ≤ 0x3FFF then .soundRam
    else if lo ≤ 0x5FFF then .synth
    else if lo ≤ 0x60FF then .soundBank
    else if lo ≤ 0x7EFF then .unmapped
    else if lo ≤ 0x7FFF then .soundVdp
    else .soundRomView
  else if top = 0xA1 then
    if lo ≤ 0x001F then .io
    else if 0x1100 ≤ lo ∧ lo ≤ 0x11FF then .busReq
    else if 0x1200 ≤ lo ∧ lo ≤ 0x12FF then .soundReset
    else .unmapped
  else if top ≤ 0xBF then .unmapped
  else if top ≤ 0xDF then .vdp
  else .ram

/-! ### The other selections -/

/-- The VDP window's ports (R151). -/
inductive PortRow where
  | data | control | hv | psg | unused
  deriving DecidableEq, Repr

/-- R151: the port of an offset `a & 0x1F`. -/
def portRow (off : BitVec 5) : PortRow :=
  if off &&& 0x1C == 0x00 then .data
  else if off &&& 0x1C == 0x04 then .control
  else if off &&& 0x18 == 0x08 then .hv
  else if off &&& 0x18 == 0x10 then .psg
  else .unused

/-- The data-port write rows of R145. -/
inductive WriteRow where
  | vram | cram | vsram | notarget | readcode
  deriving DecidableEq, Repr

/-- R145, column "data-port write": `code & 0x0F` selects the row; bit 0 marks a write operation. -/
def writeRow (code : BitVec 6) : WriteRow :=
  if code &&& 0x0F == 0x01 then .vram
  else if code &&& 0x0F == 0x03 then .cram
  else if code &&& 0x0F == 0x05 then .vsram
  else if code &&& 0x01 == 0x01 then .notarget
  else .readcode

/-- The data-port read rows of R145. -/
inductive ReadRow where
  | vram | vsram | cram | vram8 | invalid
  deriving DecidableEq, Repr

/-- R145, column "data-port read". -/
def readRow (code : BitVec 6) : ReadRow :=
  if code &&& 0x0F == 0x00 then .vram
  else if code &&& 0x0F == 0x04 then .vsram
  else if code &&& 0x0F == 0x08 then .cram
  else if code &&& 0x0F == 0x0C then .vram8
  else .invalid

/-- The three kinds of DMA run R23 bits 7:6 select (R146). -/
inductive DmaMode where
  | cpuCopy | fill | vramCopy
  deriving DecidableEq, Repr

/-- R146: 00 and 01 CPU-to-VDP copy, 10 fill, 11 VRAM copy. -/
def dmaModeOf (m : BitVec 2) : DmaMode :=
  if m == 2 then .fill else if m == 3 then .vramCopy else .cpuCopy

/-- R144: the three control-word rows; `w` is the word and `pending` the latch state. -/
def decodeCtrl (pending : Bool) (w : Word) : Instr :=
  if pending then
    .ctrlCmd2 (w.extractLsb' 8 8) (w.extractLsb' 4 4) (w.extractLsb' 2 2) (w.extractLsb' 0 2)
  else if w.extractLsb' 14 2 == 0b10 then
    .ctrlRegwrite (w.extractLsb' 13 1) (w.extractLsb' 8 5) (w.extractLsb' 0 8)
  else
    .ctrlCmd1 (w.extractLsb' 14 2) (w.extractLsb' 0 14)

/-! ### Requests -/

/-- A request: a tag byte and its operand bytes. -/
abbrev Request := List Byte

/-- What selects a row besides the request's own bits: the latch state (R144), the access code (R145), the DMA enable
and mode (R146, R320) and the armed fill (R280). -/
structure DecodeCtx where
  pending : Bool
  code : BitVec 6
  fillPending : Bool
  dmaEnable : Bool
  dmaMode : BitVec 2
  deriving DecidableEq, Repr

/-- Why a request is no encoding of any row. No hardware input is one of these (R165): they are bytes of the model's own
request format (log 2), or a DMA request in a state where no DMA starts. -/
inductive DecodeError where
  /-- no byte at all -/
  | emptyRequest
  /-- the first byte is no tag -/
  | unknownTag (t : Byte)
  /-- the operand bytes are too few or too many for the tag -/
  | badLength (t : Byte)
  /-- a port offset above 0x1F -/
  | badOffset (b : Byte)
  /-- a read of the data port, which the access code selects a row for, or a write of the data or control port -/
  | portNeedsItsOwnFormat (off : BitVec 5)
  /-- a DMA request while code bit 5 is 0: no rule starts a DMA then -/
  | noDmaTrigger
  /-- a fill-fire request while no fill is armed -/
  | noFillArmed
  deriving DecidableEq, Repr

/-- The request kinds: the table's formats with their kind and width. -/
inductive Tag where
  | read8 | read16 | read32 | write8 | write16 | write32 | dmaRead
  | sread8 | swrite8
  | addrRead | addrWrite
  | portRead | portWrite | accessRead | accessWrite | byteRead | byteWrite | longRead | longWrite
  | ctrl | dataRead | dataWrite
  | dmaTrigger | dmaFire
  | renderLine | runFrame | reset | load
  deriving DecidableEq, Repr

/-- The tag byte of a kind. -/
def Tag.byte : Tag → Byte
  | .read8 => 0x00 | .read16 => 0x01 | .read32 => 0x02
  | .write8 => 0x04 | .write16 => 0x05 | .write32 => 0x06 | .dmaRead => 0x07
  | .sread8 => 0x10 | .swrite8 => 0x11
  | .addrRead => 0x20 | .addrWrite => 0x21
  | .portRead => 0x30 | .portWrite => 0x31 | .accessRead => 0x32 | .accessWrite => 0x33
  | .byteRead => 0x34 | .byteWrite => 0x35 | .longRead => 0x36 | .longWrite => 0x37
  | .ctrl => 0x40 | .dataRead => 0x50 | .dataWrite => 0x51
  | .dmaTrigger => 0x60 | .dmaFire => 0x61
  | .renderLine => 0x70 | .runFrame => 0x71 | .reset => 0x72 | .load => 0x73

/-- Every kind. -/
def Tag.all : List Tag :=
  [.read8, .read16, .read32, .write8, .write16, .write32, .dmaRead, .sread8, .swrite8, .addrRead, .addrWrite,
   .portRead, .portWrite, .accessRead, .accessWrite, .byteRead, .byteWrite, .longRead, .longWrite,
   .ctrl, .dataRead, .dataWrite, .dmaTrigger, .dmaFire, .renderLine, .runFrame, .reset, .load]

/-- The kind a tag byte stands for. -/
def tagOf (t : Byte) : Option Tag := Tag.all.find? (fun k => k.byte == t)

/-! ### Decoding -/

/-- R148: the region row of an address. -/
def decodeAddr (a : Addr) (acc : Access 8) : Instr :=
  match addrRow a with
  | .rom => .regionRom a acc
  | .rommirror => .regionRommirror a acc
  | .rommirror2 => .regionRommirror2 a acc
  | .soundram => .regionSoundram a acc
  | .synth => .regionSynth a acc
  | .soundbank => .regionSoundbank a acc
  | .soundvdp => .regionSoundvdp a acc
  | .unmapped => .regionUnmapped a acc
  | .soundromview => .regionSoundromview a acc
  | .io => .regionIo a acc
  | .busreq => .regionBusreq a acc
  | .soundreset => .regionSoundreset a acc
  | .unmapped2 => .regionUnmapped2 a acc
  | .vdp => .regionVdp a acc
  | .ram => .regionRam a acc
  | .unmapped3 => .regionUnmapped3 a acc

/-- R151: the port row of an offset. -/
def decodePort (off : BitVec 5) (acc : Access 16) : Instr :=
  match portRow off with
  | .data => .vdpDataPort off acc
  | .control => .vdpControlPort off acc
  | .hv => .vdpHvPort off acc
  | .psg => .vdpPsgPort off acc
  | .unused => .vdpUnusedPort off acc

/-- The row a read of an offset leads to (R260). Data-port reads have their own format, the access code's. -/
def decodePortRead (off : BitVec 5) : Except DecodeError Instr :=
  match portRow off with
  | .data => .error (.portNeedsItsOwnFormat off)
  | .control => .ok (.statusRead off)
  | .hv => .ok (.hvRead off)
  | .psg => .ok (.psgRead off)
  | .unused => .ok (.vdpUnused off .read)

/-- The row a write of an offset leads to (R260). Data and control writes have formats of their own. -/
def decodePortWrite (off : BitVec 5) (v : Word) : Except DecodeError Instr :=
  match portRow off with
  | .data => .error (.portNeedsItsOwnFormat off)
  | .control => .error (.portNeedsItsOwnFormat off)
  | .hv => .ok (.hvWrite off v)
  | .psg => .ok (.psgWrite off v)
  | .unused => .ok (.vdpUnused off (.write v))

/-- R145: the data-port write row of the access code. -/
def decodeDataWrite (code : BitVec 6) (v : Word) : Instr :=
  match writeRow code with
  | .vram => .dataWriteVram v
  | .cram => .dataWriteCram v
  | .vsram => .dataWriteVsram v
  | .notarget => .dataWriteNotarget v
  | .readcode => .dataWriteReadcode v

/-- R145: the data-port read row of the access code. -/
def decodeDataRead (code : BitVec 6) : Instr :=
  match readRow code with
  | .vram => .dataReadVram
  | .vsram => .dataReadVsram
  | .cram => .dataReadCram
  | .vram8 => .dataReadVram8
  | .invalid => .dataReadInvalid

/-- R268, R320, R329: what a command word with code bit 5 set starts. -/
def decodeDma (c : DecodeCtx) : Except DecodeError Instr :=
  if c.code.getLsbD 5 then
    if c.dmaEnable then
      match dmaModeOf c.dmaMode with
      | .cpuCopy => .ok .dma68k
      | .fill => .ok .dmaFillArm
      | .vramCopy => .ok .dmaCopy
    else .ok .dmaDisabled
  else .error .noDmaTrigger

/-- Reads an operand byte, and goes on with the bytes after it. -/
def takeByte (t : Tag) (args : List Byte) (k : Byte → List Byte → Except DecodeError Instr) : Except DecodeError Instr :=
  match args with
  | b :: rest => k b rest
  | [] => .error (.badLength t.byte)

/-- Reads an operand word. -/
def takeWord (t : Tag) (args : List Byte) (k : Word → List Byte → Except DecodeError Instr) : Except DecodeError Instr :=
  match args with
  | b0 :: b1 :: rest => k (le16 b0 b1) rest
  | _ => .error (.badLength t.byte)

/-- Reads an operand address of 24 bits. -/
def takeAddr (t : Tag) (args : List Byte) (k : Addr → List Byte → Except DecodeError Instr) : Except DecodeError Instr :=
  match args with
  | b0 :: b1 :: b2 :: rest => k (le24 b0 b1 b2) rest
  | _ => .error (.badLength t.byte)

/-- Reads an operand long. -/
def takeLong (t : Tag) (args : List Byte) (k : Long → List Byte → Except DecodeError Instr) : Except DecodeError Instr :=
  match args with
  | b0 :: b1 :: b2 :: b3 :: rest => k (le32 b0 b1 b2 b3) rest
  | _ => .error (.badLength t.byte)

/-- Reads an operand port offset: a byte below 32. -/
def takeOffset (t : Tag) (args : List Byte) (k : BitVec 5 → List Byte → Except DecodeError Instr) :
    Except DecodeError Instr :=
  match args with
  | b :: rest => if b.toNat < 32 then k (b.setWidth 5) rest else .error (.badOffset b)
  | [] => .error (.badLength t.byte)

/-- The end of the operands. -/
def atEnd (t : Tag) (args : List Byte) (r : Except DecodeError Instr) : Except DecodeError Instr :=
  match args with
  | [] => r
  | _ :: _ => .error (.badLength t.byte)

/-- The operands of one kind of request. -/
def decodeArgs (c : DecodeCtx) (t : Tag) (args : List Byte) : Except DecodeError Instr :=
  match t with
  | .read8 => takeLong t args fun a r => atEnd t r (.ok (.read8 a))
  | .read16 => takeLong t args fun a r => atEnd t r (.ok (.read16 a))
  | .read32 => takeLong t args fun a r => atEnd t r (.ok (.read32 a))
  | .write8 => takeLong t args fun a r => takeByte t r fun v r => atEnd t r (.ok (.write8 a v))
  | .write16 => takeLong t args fun a r => takeWord t r fun v r => atEnd t r (.ok (.write16 a v))
  | .write32 => takeLong t args fun a r => takeLong t r fun v r => atEnd t r (.ok (.write32 a v))
  | .dmaRead => takeAddr t args fun a r => atEnd t r (.ok (.dmaSourceRead16 a))
  | .sread8 => takeWord t args fun z r => atEnd t r (.ok (.sread8 z))
  | .swrite8 => takeWord t args fun z r => takeByte t r fun b r => atEnd t r (.ok (.swrite8 z b))
  | .addrRead => takeAddr t args fun a r => atEnd t r (.ok (decodeAddr a .read))
  | .addrWrite => takeAddr t args fun a r => takeByte t r fun v r => atEnd t r (.ok (decodeAddr a (.write v)))
  | .portRead => takeOffset t args fun off r => atEnd t r (.ok (decodePort off .read))
  | .portWrite => takeOffset t args fun off r => takeWord t r fun v r => atEnd t r (.ok (decodePort off (.write v)))
  | .accessRead => takeOffset t args fun off r => atEnd t r (decodePortRead off)
  | .accessWrite => takeOffset t args fun off r => takeWord t r fun v r => atEnd t r (decodePortWrite off v)
  | .byteRead => takeOffset t args fun off r => atEnd t r (.ok (.vdpByteAccess off .read))
  | .byteWrite => takeOffset t args fun off r => takeByte t r fun b r => atEnd t r (.ok (.vdpByteAccess off (.write b)))
  | .longRead => takeOffset t args fun off r => atEnd t r (.ok (.vdpLongAccess off .read))
  | .longWrite => takeOffset t args fun off r => takeLong t r fun v r => atEnd t r (.ok (.vdpLongAccess off (.write v)))
  | .ctrl => takeWord t args fun w r => atEnd t r (.ok (decodeCtrl c.pending w))
  | .dataRead => atEnd t args (.ok (decodeDataRead c.code))
  | .dataWrite => takeWord t args fun v r => atEnd t r (.ok (decodeDataWrite c.code v))
  | .dmaTrigger => atEnd t args (decodeDma c)
  | .dmaFire => takeWord t args fun v r => atEnd t r (if c.fillPending then .ok (.dmaFillFire v) else .error .noFillArmed)
  | .renderLine => takeByte t args fun y r => atEnd t r (.ok (.renderLine y))
  | .runFrame => atEnd t args (.ok .runFrame)
  | .reset => atEnd t args (.ok .reset)
  | .load => .ok (.loadCartridge args)

/-- The decoder: total on any bytes, in any context. -/
def decode (c : DecodeCtx) (q : Request) : Except DecodeError Instr :=
  match q with
  | [] => .error .emptyRequest
  | t :: args =>
    match tagOf t with
    | some tag => decodeArgs c tag args
    | none => .error (.unknownTag t)

/-! ### Encoding -/

/-- The byte that holds a port offset. -/
def offByte (off : BitVec 5) : Byte := off.setWidth 8

/-- A region row's request. -/
def encodeAddr (a : Addr) (acc : Access 8) : Request :=
  match acc with
  | .read => Tag.addrRead.byte :: bytes24 a
  | .write v => Tag.addrWrite.byte :: (bytes24 a ++ [v])

/-- A port row's request. -/
def encodePort (off : BitVec 5) (acc : Access 16) : Request :=
  match acc with
  | .read => [Tag.portRead.byte, offByte off]
  | .write v => Tag.portWrite.byte :: offByte off :: bytes16 v

/-- The request of a port access that has no format of its own. -/
def encodeAccess (off : BitVec 5) (acc : Access 16) : Request :=
  match acc with
  | .read => [Tag.accessRead.byte, offByte off]
  | .write v => Tag.accessWrite.byte :: offByte off :: bytes16 v

/-- A control word's request. -/
def encodeCtrl (w : Word) : Request := Tag.ctrl.byte :: bytes16 w

/-- A data-port write's request. -/
def encodeDataWrite (v : Word) : Request := Tag.dataWrite.byte :: bytes16 v

/-- The control word of R141: 0b10, the ignored bit 13, the index, the value. -/
def regWriteWord (x : BitVec 1) (r : BitVec 5) (v : Byte) : Word := (0b10#2) ++ (x ++ (r ++ v))

/-- The control word of R142: CD1:CD0, A13..A0. -/
def cmd1Word (cd10 : BitVec 2) (a : BitVec 14) : Word := cd10 ++ a

/-- The control word of R143: ignored, CD5..CD2, ignored, A15:A14. -/
def cmd2Word (x : Byte) (cd52 : BitVec 4) (y : BitVec 2) (a : BitVec 2) : Word := x ++ (cd52 ++ (y ++ a))

/-- R144's composition: the long that sends a whole command to the control port. -/
def cmdLong (code : BitVec 6) (a : Word) : Long :=
  cmd1Word (code.extractLsb' 0 2) (a.extractLsb' 0 14) ++ cmd2Word 0 (code.extractLsb' 2 4) 0 (a.extractLsb' 14 2)

/-- The encoder: the request of an instruction. -/
def encode : Instr → Request
  | .read8 a => Tag.read8.byte :: bytes32 a
  | .read16 a => Tag.read16.byte :: bytes32 a
  | .read32 a => Tag.read32.byte :: bytes32 a
  | .write8 a v => Tag.write8.byte :: (bytes32 a ++ [v])
  | .write16 a v => Tag.write16.byte :: (bytes32 a ++ bytes16 v)
  | .write32 a v => Tag.write32.byte :: (bytes32 a ++ bytes32 v)
  | .sread8 z => Tag.sread8.byte :: bytes16 z
  | .swrite8 z b => Tag.swrite8.byte :: (bytes16 z ++ [b])
  | .dmaSourceRead16 src => Tag.dmaRead.byte :: bytes24 src
  | .regionRom a acc => encodeAddr a acc
  | .regionRommirror a acc => encodeAddr a acc
  | .regionRommirror2 a acc => encodeAddr a acc
  | .regionSoundram a acc => encodeAddr a acc
  | .regionSynth a acc => encodeAddr a acc
  | .regionSoundbank a acc => encodeAddr a acc
  | .regionSoundvdp a acc => encodeAddr a acc
  | .regionUnmapped a acc => encodeAddr a acc
  | .regionSoundromview a acc => encodeAddr a acc
  | .regionIo a acc => encodeAddr a acc
  | .regionBusreq a acc => encodeAddr a acc
  | .regionSoundreset a acc => encodeAddr a acc
  | .regionUnmapped2 a acc => encodeAddr a acc
  | .regionVdp a acc => encodeAddr a acc
  | .regionRam a acc => encodeAddr a acc
  | .regionUnmapped3 a acc => encodeAddr a acc
  | .vdpDataPort off acc => encodePort off acc
  | .vdpControlPort off acc => encodePort off acc
  | .vdpHvPort off acc => encodePort off acc
  | .vdpPsgPort off acc => encodePort off acc
  | .vdpUnusedPort off acc => encodePort off acc
  | .ctrlRegwrite x r v => encodeCtrl (regWriteWord x r v)
  | .ctrlCmd1 cd10 a => encodeCtrl (cmd1Word cd10 a)
  | .ctrlCmd2 x cd52 y a => encodeCtrl (cmd2Word x cd52 y a)
  | .dataWriteVram v => encodeDataWrite v
  | .dataWriteCram v => encodeDataWrite v
  | .dataWriteVsram v => encodeDataWrite v
  | .dataWriteNotarget v => encodeDataWrite v
  | .dataWriteReadcode v => encodeDataWrite v
  | .dataReadVram => [Tag.dataRead.byte]
  | .dataReadVsram => [Tag.dataRead.byte]
  | .dataReadCram => [Tag.dataRead.byte]
  | .dataReadVram8 => [Tag.dataRead.byte]
  | .dataReadInvalid => [Tag.dataRead.byte]
  | .statusRead off => encodeAccess off .read
  | .hvRead off => encodeAccess off .read
  | .hvWrite off v => encodeAccess off (.write v)
  | .psgWrite off v => encodeAccess off (.write v)
  | .psgRead off => encodeAccess off .read
  | .vdpUnused off acc => encodeAccess off acc
  | .vdpByteAccess off .read => [Tag.byteRead.byte, offByte off]
  | .vdpByteAccess off (.write b) => [Tag.byteWrite.byte, offByte off, b]
  | .vdpLongAccess off .read => [Tag.longRead.byte, offByte off]
  | .vdpLongAccess off (.write v) => Tag.longWrite.byte :: offByte off :: bytes32 v
  | .dma68k => [Tag.dmaTrigger.byte]
  | .dmaFillArm => [Tag.dmaTrigger.byte]
  | .dmaFillFire v => Tag.dmaFire.byte :: bytes16 v
  | .dmaCopy => [Tag.dmaTrigger.byte]
  | .dmaDisabled => [Tag.dmaTrigger.byte]
  | .renderLine y => [Tag.renderLine.byte, y]
  | .runFrame => [Tag.runFrame.byte]
  | .reset => [Tag.reset.byte]
  | .loadCartridge blob => Tag.load.byte :: blob

/-- Whether the context selects the instruction's row: the "(latch Idle)", "(latch Pending)", access-code and DMA
conditions of the table's match column. Rows that no context selects hold in every context. -/
def Instr.selectedBy (i : Instr) (c : DecodeCtx) : Bool :=
  match i with
  | .read8 _ | .read16 _ | .read32 _ | .write8 _ _ | .write16 _ _ | .write32 _ _ => true
  | .sread8 _ | .swrite8 _ _ | .dmaSourceRead16 _ => true
  | .regionRom _ _ | .regionRommirror _ _ | .regionRommirror2 _ _ | .regionSoundram _ _ | .regionSynth _ _ => true
  | .regionSoundbank _ _ | .regionSoundvdp _ _ | .regionUnmapped _ _ | .regionSoundromview _ _ => true
  | .regionIo _ _ | .regionBusreq _ _ | .regionSoundreset _ _ | .regionUnmapped2 _ _ => true
  | .regionVdp _ _ | .regionRam _ _ | .regionUnmapped3 _ _ => true
  | .vdpDataPort _ _ | .vdpControlPort _ _ | .vdpHvPort _ _ | .vdpPsgPort _ _ | .vdpUnusedPort _ _ => true
  | .ctrlRegwrite _ _ _ => !c.pending
  | .ctrlCmd1 _ _ => !c.pending
  | .ctrlCmd2 _ _ _ _ => c.pending
  | .dataWriteVram _ => writeRow c.code == .vram
  | .dataWriteCram _ => writeRow c.code == .cram
  | .dataWriteVsram _ => writeRow c.code == .vsram
  | .dataWriteNotarget _ => writeRow c.code == .notarget
  | .dataWriteReadcode _ => writeRow c.code == .readcode
  | .dataReadVram => readRow c.code == .vram
  | .dataReadVsram => readRow c.code == .vsram
  | .dataReadCram => readRow c.code == .cram
  | .dataReadVram8 => readRow c.code == .vram8
  | .dataReadInvalid => readRow c.code == .invalid
  | .statusRead _ | .hvRead _ | .hvWrite _ _ | .psgWrite _ _ | .psgRead _ | .vdpUnused _ _ => true
  | .vdpByteAccess _ _ | .vdpLongAccess _ _ => true
  | .dma68k => c.code.getLsbD 5 && c.dmaEnable && dmaModeOf c.dmaMode == .cpuCopy
  | .dmaFillArm => c.code.getLsbD 5 && c.dmaEnable && dmaModeOf c.dmaMode == .fill
  | .dmaFillFire _ => c.fillPending
  | .dmaCopy => c.code.getLsbD 5 && c.dmaEnable && dmaModeOf c.dmaMode == .vramCopy
  | .dmaDisabled => c.code.getLsbD 5 && !c.dmaEnable
  | .renderLine _ | .runFrame | .reset | .loadCartridge _ => true

/-! ### The table's words -/

/-- The context a table word of `nbits` bits brings with it: a 16-bit control word is read with the latch Idle, and an
8-bit access code is the code itself (log 17). -/
def tableCtx (nbits w : Nat) (c : DecodeCtx) : DecodeCtx :=
  if nbits = 16 then { c with pending := false }
  else if nbits = 8 ∧ w / 16 % 2 = 0 then { c with code := BitVec.ofNat 6 w }
  else c

/-- The request of a table word: 24 bits are an address (addr24, a read), 16 a control word, 8 an access code or, with
bit 4 set, a port offset (log 17). An odd access code is a write code and stands for a write, an even one for a read. The
bits above `nbits` are 0: a read, or a write of the value 0. Any other size is no row of the table. -/
def tableRequest (nbits w : Nat) : Request :=
  if nbits = 24 then Tag.addrRead.byte :: bytes24 (BitVec.ofNat 24 w)
  else if nbits = 16 then encodeCtrl (BitVec.ofNat 16 w)
  else if nbits = 8 then
    if w / 16 % 2 = 1 then encodePort (BitVec.ofNat 5 w) .read
    else if w % 2 = 1 then encodeDataWrite 0
    else [Tag.dataRead.byte]
  else []

/-- The context of the reset state: latch Idle, code 0, no fill armed, DMA disabled, mode 0 (R99). -/
def resetCtx : DecodeCtx := ⟨false, 0, false, false, 0⟩

/-- The instruction the decoder reads from a word of the table, numbered as the table numbers its bits. -/
def decodeTableWord (nbits w : Nat) : Option Instr :=
  match decode (tableCtx nbits w resetCtx) (tableRequest nbits w) with
  | .ok i => some i
  | .error _ => none

end Sys2Proof
end

