-- ==== Sys2Proof/Machine/State.lean ====
section
/-! DEFINITION. The state, grouped by owner as 10_state.md R32 groups it, with the value of every element after reset
(R99). All of it is plain data. -/

namespace Sys2Proof.Machine

/-- A byte memory: the bytes that are not 0, by rising address; an unlisted address reads 0, the reset contents R99 gives
every RAM (log 14). -/
abbrev Memory := List Host.Cell

/-- The scheduler's segment within a line (R74). -/
inductive Phase where
  | idle | active | hblank | vblankEntry | vblankLine
  deriving DecidableEq, Repr

/-- What a request returns (log 6): nothing, a value of the access's width, or LoadCartridge's result (R502). -/
inductive Reply where
  | done
  | byte (b : Byte)
  | word (w : Word)
  | long (l : Long)
  | loaded
  | tooLarge
  deriving DecidableEq, Repr

/-- The calls of the external collaborators' contracts (R11), with the value the environment returned where a call returns
one, and the transactions the CPUs were served inside a budget, with their replies (log 5). -/
inductive Event where
  | cpuExecute (n : Nat)
  | soundExecute (n : Nat)
  | assertInterrupt (level : Nat)
  | setBusRequest (b : Bool)
  | setReset (b : Bool)
  | synthWrite (port : BitVec 2) (v : Byte)
  | synthRead (port : BitVec 2) (v : Byte)
  | synthTick
  | ioRead (off : BitVec 5) (v : Byte)
  | ioWrite (off : BitVec 5) (v : Byte)
  | psgWrite (v : Byte)
  | cpuAccess (op : BusOp) (r : Reply)
  | soundAccess (op : SoundOp) (r : Reply)
  deriving DecidableEq, Repr

/-- The memory bus's state (R33-R38). -/
structure BusState where
  /-- R33: the cartridge image. -/
  rom : Memory
  /-- R34: its length. -/
  romSize : Nat
  /-- R35: the 64 KiB work RAM. -/
  wram : Memory
  /-- R36: the 32 KiB sound RAM. -/
  sram : Memory
  /-- R37: the sound CPU's bank register. -/
  bank : BitVec 9
  /-- R38: the last bus-request value. -/
  busReq : Bool
  /-- R38: the last reset value; false holds the sound CPU in reset. -/
  soundReset : Bool
  deriving DecidableEq, Repr

/-- The VDP's registers, memories, port protocol and fill flag (R39-R71). -/
structure VdpState where
  /-- R39-R61. -/
  reg : Vector Byte 32
  /-- R64: 64 KiB, in the VDP's logical byte order. -/
  vram : Memory
  /-- R65. -/
  cram : Vector Word 64
  /-- R66. -/
  vsram : Vector Word 64
  /-- R71: the 1 KiB sprite-attribute cache. -/
  satCache : Memory
  /-- R67: four words, most recent first. -/
  fifo : Vector Word 4
  /-- R68: true is Pending. -/
  pending : Bool
  /-- R68: CD5..CD0. -/
  code : BitVec 6
  /-- R68: the VDP address. -/
  addr : Word
  /-- R69. -/
  fillPending : Bool
  /-- R70. -/
  hvLatchValue : Word
  deriving DecidableEq, Repr

/-- The scheduler's state (R72-R74), and the height sampled at frame start (R430, R443; log 9). -/
structure SchedState where
  /-- R72: vertical blanking. -/
  vb : Bool
  /-- R72: horizontal blanking. -/
  hb : Bool
  /-- R72: frame interrupt happened. -/
  f : Bool
  /-- R73. -/
  hintCounter : Byte
  /-- R74. -/
  curLine : Nat
  /-- R74. -/
  phase : Phase
  /-- The frame's sampled height: true is 240 lines. -/
  frameV30 : Bool
  deriving DecidableEq, Repr

/-- The MODEL's own fields, not the spec's: what the environment will ask, and what the block answered and called. -/
structure EnvState where
  /-- The requests waiting to be served (log 1). -/
  inbox : List Request
  /-- One list of transactions for each coming `Cpu.execute` call (log 3). -/
  cpuScript : List (List BusOp)
  /-- One list of transactions for each coming `SoundCpu.execute` call (log 3). -/
  soundScript : List (List SoundOp)
  /-- How many draws have been made (R12; log 4). -/
  draws : Nat
  /-- What the last request returned (log 6). -/
  reply : Reply
  /-- The calls made, newest first (log 5). -/
  events : List Event
  deriving DecidableEq, Repr

/-- The framebuffer's rows and columns (R75). -/
abbrev Framebuffer := Vector (Vector Long 320) 240


/-- The machine's state. -/
structure State where
  cfg : Config.Params
  bus : BusState
  vdp : VdpState
  sched : SchedState
  fb : Framebuffer
  env : EnvState
  deriving DecidableEq, Repr

/-- Why a step faults: never. "The model has no fault and no stuck behaviour anywhere"
(93_implementation_defined.md); no rule of the block raises (R13, R470), so this type has no value. Safe: nothing of the
spec is stopped. -/
inductive Fault where
  deriving DecidableEq, Repr

/-- Why a step is refused. -/
inductive Refusal where
  /-- Raised by `exec` for a row that has no meaning; no row is one. Safe: the model stops. -/
  | notModelled (mnemonic : String)
  /-- Raised by `step` for a request that is no encoding of any row in the present state (log 2). Safe: no hardware input
  is such a request (R165), and the model stops. -/
  | undecodable (e : DecodeError)
  deriving DecidableEq, Repr

/-- The VDP after reset (R99). -/
def VdpState.reset : VdpState where
  reg := Vector.replicate 32 0
  vram := []
  cram := Vector.replicate 64 0
  vsram := Vector.replicate 64 0
  satCache := []
  fifo := Vector.replicate 4 0
  pending := false
  code := 0
  addr := 0
  fillPending := false
  hvLatchValue := 0

/-- The scheduler after reset (R99); `frameV30` is the model's choice (log 9). -/
def SchedState.reset : SchedState where
  vb := false
  hb := false
  f := false
  hintCounter := 0
  curLine := 0
  phase := .idle
  frameV30 := false

/-- The framebuffer after reset: all 0 (R99). -/
def Framebuffer.reset : Framebuffer := Vector.replicate 240 (Vector.replicate 320 0)

/-- The memory bus at power-on: rom all 0, romSize 0 (R500, D73), the rest as after reset (R99). -/
def BusState.powerOn : BusState where
  rom := []
  romSize := 0
  wram := []
  sram := []
  bank := 0
  busReq := false
  soundReset := false

/-- The machine right after reset at power-on (R99, R500): the spec's elements at the spec's values, the parameters at the
spec's defaults (log 7), and the model's own fields empty (log 20). -/
def State.reset : State where
  cfg := Config.Params.default
  bus := BusState.powerOn
  vdp := VdpState.reset
  sched := SchedState.reset
  fb := Framebuffer.reset
  env := { inbox := [], cpuScript := [], soundScript := [], draws := 0, reply := .done, events := [] }

end Sys2Proof.Machine
end

