-- ==== Sys2Proof/Machine/Operands.lean ====
section
/-! DEFINITION. The fields and derived values of the VDP registers (10_state.md R40-R63), the PackColor parameter, and the
bit-field helpers. Each accessor names the rule that gives its bits. -/

namespace Sys2Proof.Machine

/-- Bits 15:8 of a word. -/
def hiByte (w : Word) : Byte := w.extractLsb' 8 8

/-- Bits 7:0 of a word. -/
def loByte (w : Word) : Byte := w.extractLsb' 0 8

/-- The word whose high byte is `h` and low byte `l` (R101). -/
def mkWord (h l : Byte) : Word := h ++ l

/-- Bits 31:16 of a long (R108). -/
def hiWord (l : Long) : Word := l.extractLsb' 16 16

/-- Bits 15:0 of a long (R108). -/
def loWord (l : Long) : Word := l.extractLsb' 0 16

/-- VDP register i (R39). -/
def VdpState.r (v : VdpState) (i : Fin 32) : Byte := v.reg[i]

/-- `reg[i] <- b` (R10). -/
def VdpState.setR (v : VdpState) (i : Fin 32) (b : Byte) : VdpState := { v with reg := v.reg.set i.val b i.isLt }

/-- R40: the H-interrupt enable IE1. -/
def VdpState.hintEnable (v : VdpState) : Bool := (v.r 0).getLsbD 4

/-- R40: the H/V-counter latch M3. -/
def VdpState.hvLatched (v : VdpState) : Bool := (v.r 0).getLsbD 1

/-- R41: display enable DISP. -/
def VdpState.displayOn (v : VdpState) : Bool := (v.r 1).getLsbD 6

/-- R41: the frame-interrupt enable IE0. -/
def VdpState.vintEnable (v : VdpState) : Bool := (v.r 1).getLsbD 5

/-- R41: the master DMA enable M1. -/
def VdpState.dmaEnable (v : VdpState) : Bool := (v.r 1).getLsbD 4

/-- R41: 240-line mode M2. -/
def VdpState.v30 (v : VdpState) : Bool := (v.r 1).getLsbD 3

/-- R41: mode 5 M5. -/
def VdpState.m5 (v : VdpState) : Bool := (v.r 1).getLsbD 2

/-- R51: H40. -/
def VdpState.h40 (v : VdpState) : Bool := (v.r 12).getLsbD 0

/-- R62: the line width. -/
def VdpState.width (v : VdpState) : Nat := if v.h40 then 320 else 256

/-- R62: the frame height the registers select now. -/
def VdpState.height (v : VdpState) : Nat := if v.v30 then 240 else 224

/-- R42: plane A's nametable base. -/
def VdpState.baseA (v : VdpState) : Word := ((v.r 2).setWidth 16 &&& 0x38) <<< 10

/-- R44: plane B's nametable base. -/
def VdpState.baseB (v : VdpState) : Word := ((v.r 4).setWidth 16 &&& 0x07) <<< 13

/-- R43: the window's nametable base. -/
def VdpState.baseW (v : VdpState) : Word :=
  if v.h40 then ((v.r 3).setWidth 16 &&& 0x3C) <<< 10 else ((v.r 3).setWidth 16 &&& 0x3E) <<< 10

/-- R45: the sprite table's base. -/
def VdpState.satBase (v : VdpState) : Word :=
  if v.h40 then ((v.r 5).setWidth 16 &&& 0x7E) <<< 9 else ((v.r 5).setWidth 16 &&& 0x7F) <<< 9

/-- R45: the sprite table window's size. -/
def VdpState.satSize (v : VdpState) : Nat := if v.h40 then 0x400 else 0x200

/-- R47: the backdrop's CRAM index. -/
def VdpState.backdrop (v : VdpState) : BitVec 6 := (v.r 7).extractLsb' 0 6

/-- R50: the horizontal-scroll mode. -/
def VdpState.hscrollMode (v : VdpState) : BitVec 2 := (v.r 11).extractLsb' 0 2

/-- R50: the vertical-scroll mode VSCR. -/
def VdpState.vscrollColumns (v : VdpState) : Bool := (v.r 11).getLsbD 2

/-- R52: the horizontal-scroll table's base. -/
def VdpState.hsBase (v : VdpState) : Word := ((v.r 13).setWidth 16 &&& 0x3F) <<< 10

/-- R54: the auto-increment, as a 16-bit value. -/
def VdpState.inc (v : VdpState) : Word := (v.r 15).setWidth 16

/-- R164, R364: the decode of a plane-size pair. -/
def planeCells (d : BitVec 2) : Nat := if d == 1 then 64 else if d == 3 then 128 else 32

/-- R55: the planes' width in cells. -/
def VdpState.planeW (v : VdpState) : Nat := planeCells ((v.r 16).extractLsb' 0 2)

/-- R55: the planes' height in cells. -/
def VdpState.planeH (v : VdpState) : Nat := planeCells ((v.r 16).extractLsb' 4 2)

/-- R56: RIGT. -/
def VdpState.windowRight (v : VdpState) : Bool := (v.r 17).getLsbD 7

/-- R56: WHP. -/
def VdpState.windowH (v : VdpState) : Nat := ((v.r 17).extractLsb' 0 5).toNat

/-- R57: DOWN. -/
def VdpState.windowDown (v : VdpState) : Bool := (v.r 18).getLsbD 7

/-- R57: WVP. -/
def VdpState.windowV (v : VdpState) : Nat := ((v.r 18).extractLsb' 0 5).toNat

/-- R58: the DMA length registers. -/
def VdpState.lenReg (v : VdpState) : Word := mkWord (v.r 20) (v.r 19)

/-- R154: the CPU-to-VDP source byte address, R23 bits 6:0, R22, R21, shifted left by 1. -/
def VdpState.cpuSource (v : VdpState) : Addr := (v.r 23).extractLsb' 0 7 ++ ((v.r 22) ++ ((v.r 21) ++ (0#1)))

/-- R154: the copy's 16-bit source address. -/
def VdpState.copySource (v : VdpState) : Word := mkWord (v.r 22) (v.r 21)

/-- R60: the DMA mode field. -/
def VdpState.dmaMode (v : VdpState) : BitVec 2 := (v.r 23).extractLsb' 6 2

/-- R263: whether a register-write word reaches register r, with M5 as it is before the write. -/
def VdpState.regWritable (v : VdpState) (r : BitVec 5) : Bool :=
  decide (r.toNat < 24) && (decide (r.toNat < 11) || v.m5)

/-- What selects a request's row in this state (R144-R146). -/
def State.decodeCtx (s : State) : DecodeCtx where
  pending := s.vdp.pending
  code := s.vdp.code
  fillPending := s.vdp.fillPending
  dmaEnable := s.vdp.dmaEnable
  dmaMode := s.vdp.dmaMode

/-- TOTAL_LINES (R444). -/
def totalLines (region : TvRegion) : Nat :=
  match region with
  | .ntsc => 262
  | .pal => 313

/-- CPU_LINE_CYCLES (R6). -/
def cpuLineCycles (p : Config.Params) : Nat := p.cpuActiveCycles + p.cpuHblankCycles

/-- The sound CPU's budget of a line: CPU_LINE_CYCLES / SOUND_DIVISOR (R434). -/
def soundBudget (p : Config.Params) : Nat := cpuLineCycles p / p.soundDivisor

/-- D42: a 3-bit component widened to 8 bits. -/
def widen3 (c : BitVec 3) : Byte := (c.setWidth 8 <<< 5) ||| (c.setWidth 8 <<< 2) ||| (c.setWidth 8 >>> 1)

/-- D42's default PackColor. -/
def packDefault (c : Word) : Long :=
  (0xFF#8) ++ (widen3 (c.extractLsb' 1 3) ++ (widen3 (c.extractLsb' 5 3) ++ widen3 (c.extractLsb' 9 3)))

/-- PackColor (R6, R377): the default, but for the listed words (log 8). -/
def packColor (p : Config.Params) (c : Word) : Long := (p.packOverrides.lookup c).getD (packDefault c)

end Sys2Proof.Machine
end

