-- ==== Sys2Proof/Machine/Ops.lean ====
section
/-! DEFINITION. The named operations every meaning is built from: byte memories, draws, calls to the external
collaborators, replies, the plain memories of the bus, and the VDP memory primitives of 20_memory.md. -/

namespace Sys2Proof.Machine

/-! ### Byte memories -/

/-- The byte at `k`; 0 where nothing is listed (R99; log 14). -/
def Memory.read : Memory → Nat → Byte
  | [], _ => 0
  | (j, b) :: t, k => if j = k then b else Memory.read t k

/-- The memory without an entry for `k`. -/
def Memory.erase : Memory → Nat → Memory
  | [], _ => []
  | (j, b) :: t, k => if j = k then Memory.erase t k else (j, b) :: Memory.erase t k

/-- The memory with an entry put before the first larger address. -/
def Memory.insert : Memory → Nat → Byte → Memory
  | [], k, b => [(k, b)]
  | (j, c) :: t, k, b => if k < j then (k, b) :: (j, c) :: t else (j, c) :: Memory.insert t k b

/-- `m[k] <- b`. Writing 0, which an unlisted address reads as, removes the entry. -/
def Memory.write (m : Memory) (k : Nat) (b : Byte) : Memory :=
  if b = 0 then m.erase k else (m.erase k).insert k b

/-- The memory whose bytes from `k` on are the given ones. -/
def Memory.ofBytes (k : Nat) : List Byte → Memory
  | [] => []
  | b :: t => if b = 0 then Memory.ofBytes (k + 1) t else (k, b) :: Memory.ofBytes (k + 1) t

/-- The canonical form: addresses from `lo` on strictly rising, below `hi`, and no entry 0. -/
def Memory.wfFrom (lo hi : Nat) : Memory → Bool
  | [] => true
  | (k, b) :: t => decide (lo ≤ k) && decide (k < hi) && decide (b ≠ 0) && Memory.wfFrom (k + 1) hi t

/-- The canonical form of a memory of `size` bytes. -/
def Memory.wf (size : Nat) (m : Memory) : Bool := Memory.wfFrom 0 size m

/-! ### Draws, external calls, replies -/

/-- `draw(T)` for a T of `w` bits (R12): the next free value. -/
def State.draw (s : State) (w : Nat) : BitVec w × State :=
  (Config.freeBits w s.env.draws, { s with env := { s.env with draws := s.env.draws + 1 } })

/-- A call of an external collaborator (R11). -/
def State.call (s : State) (e : Event) : State := { s with env := { s.env with events := e :: s.env.events } }

/-- `Cpu.assertInterrupt(level)` (R472), the block's only interrupt action: a one-shot call. The block performs no trap
entry and keeps no pending state (R474, R476). -/
def State.assertInterrupt (s : State) (level : Nat) : State := s.call (.assertInterrupt level)

/-- `Synth.read(port)`: the environment's value (R205). -/
def State.synthRead (s : State) (port : BitVec 2) : Byte × State :=
  ((s.draw 8).1, (s.draw 8).2.call (.synthRead port (s.draw 8).1))

/-- `IoPorts.read(off)`: the environment's value (R208). -/
def State.ioRead (s : State) (off : BitVec 5) : Byte × State :=
  ((s.draw 8).1, (s.draw 8).2.call (.ioRead off (s.draw 8).1))

/-- The state with the request's reply recorded. -/
def State.replied (s : State) (r : Reply) : State := { s with env := { s.env with reply := r } }

/-- The outcome of an instruction that returns a value. -/
def answer (s : State) (r : Reply) : Host.Outcome State Fault Refusal := .next (s.replied r)

/-- The outcome of an instruction that returns nothing. -/
def finish (s : State) : Host.Outcome State Fault Refusal := answer s .done

/-! ### The bus's memories -/

/-- R201, R203: a ROM byte; past the image, 0xFF. -/
def BusState.romByte (b : BusState) (a : Addr) : Byte :=
  if a.toNat % 0x400000 < b.romSize then b.rom.read (a.toNat % 0x400000) else 0xFF

/-- R212: a work-RAM byte. -/
def BusState.ramByte (b : BusState) (a : Addr) : Byte := b.wram.read (a.toNat % 0x10000)

/-- R212: a work-RAM store. -/
def BusState.ramStore (b : BusState) (a : Addr) (v : Byte) : BusState :=
  { b with wram := b.wram.write (a.toNat % 0x10000) v }

/-- R204: the sound-RAM index of an address, `(a & 0xFFFF) & SOUND_RAM_MASK`. -/
def soundIndex (mask : Word) (a : Addr) : Nat := (a.setWidth 16 &&& mask).toNat

/-- R204: a sound-RAM byte. -/
def BusState.soundByte (b : BusState) (mask : Word) (a : Addr) : Byte := b.sram.read (soundIndex mask a)

/-- R204: a sound-RAM store. -/
def BusState.soundStore (b : BusState) (mask : Word) (a : Addr) (v : Byte) : BusState :=
  { b with sram := b.sram.write (soundIndex mask a) v }

/-- R206: one bit shifted into the top of the bank register. -/
def bankShift (bank : BitVec 9) (b : Byte) : BitVec 9 := (bank >>> 1) ||| ((b.setWidth 9 &&& 1) <<< 8)

/-! ### VDP memory primitives (20_memory.md) -/

/-- R104: `VramWrite(x, b)`, the only way VRAM changes, with the sprite-cache mirror. -/
def VdpState.vramWrite (v : VdpState) (x : Word) (b : Byte) : VdpState :=
  { v with
    vram := v.vram.write x.toNat b
    satCache :=
      if v.satBase.toNat ≤ x.toNat ∧ x.toNat < v.satBase.toNat + v.satSize then
        v.satCache.write (x.toNat - v.satBase.toNat) b
      else v.satCache }

/-- R103: the byte-swapped pair write. -/
def VdpState.vramWritePair (v : VdpState) (a w : Word) : VdpState :=
  (v.vramWrite a (hiByte w)).vramWrite (a ^^^ 1) (loByte w)

/-- R105: a VRAM byte. -/
def VdpState.vramRead (v : VdpState) (x : Word) : Byte := v.vram.read x.toNat

/-- R105: the aligned word that contains x. -/
def VdpState.vramReadWord (v : VdpState) (x : Word) : Word :=
  mkWord (v.vramRead (x &&& 0xFFFE)) (v.vramRead ((x &&& 0xFFFE) ||| 1))

/-- R106: the CRAM or VSRAM entry of a VDP address, `(addr >> 1) & 0x3F`. -/
def entryIndex (a : Word) : BitVec 6 := a.extractLsb' 1 6

/-- A CRAM entry. -/
def VdpState.cramAt (v : VdpState) (i : BitVec 6) : Word := v.cram[i.toNat]'i.isLt

/-- A VSRAM entry. -/
def VdpState.vsramAt (v : VdpState) (i : BitVec 6) : Word := v.vsram[i.toNat]'i.isLt

/-- R106: a CRAM entry store, all 16 bits. -/
def VdpState.cramStore (v : VdpState) (i : BitVec 6) (w : Word) : VdpState :=
  { v with cram := v.cram.set i.toNat w i.isLt }

/-- R106: a VSRAM entry store, all 16 bits. -/
def VdpState.vsramStore (v : VdpState) (i : BitVec 6) (w : Word) : VdpState :=
  { v with vsram := v.vsram.set i.toNat w i.isLt }

/-- R281: `FifoPush(v)`. -/
def VdpState.fifoPush (v : VdpState) (w : Word) : VdpState :=
  { v with fifo := #v[w, v.fifo[0], v.fifo[1], v.fifo[2]] }

/-- R286: `AddrAdvance()`. -/
def VdpState.addrAdvance (v : VdpState) : VdpState := { v with addr := v.addr + v.inc }

/-- D22: a data-port or status access returns the latch to Idle. -/
def VdpState.clearPending (v : VdpState) : VdpState := { v with pending := false }

/-- The memory write of a write code (R282-R285): the word to the target the code selects, or nothing. -/
def VdpState.storeWord (v : VdpState) (w : Word) : VdpState :=
  match writeRow v.code with
  | .vram => v.vramWritePair v.addr w
  | .cram => v.cramStore (entryIndex v.addr) w
  | .vsram => v.vsramStore (entryIndex v.addr) w
  | .notarget => v
  | .readcode => v

end Sys2Proof.Machine
end

