-- ==== Sys2Proof/Machine/Flags.lean ====
section
/-! DEFINITION. The status word and its flags (10_state.md R72, R76, R77) and the H/V counter (44_frame_scheduler.md R440,
R441). -/

namespace Sys2Proof.Machine

/-- R76: the status word, `d` the drawn bits 15:10. -/
def State.statusWord (s : State) (d : BitVec 6) : Word :=
  d ++ ((0b10#2) ++ (BitVec.ofBool s.sched.f ++ ((0b000#3) ++ (BitVec.ofBool s.sched.vb ++
    (BitVec.ofBool s.sched.hb ++ (BitVec.ofBool s.vdp.fillPending ++ BitVec.ofBool (s.cfg.region == .pal)))))))

/-- R440: the V counter of a line; `v30` is the frame's sampled height. -/
def vCounter (region : TvRegion) (v30 : Bool) (line : Nat) : Byte :=
  match region, v30 with
  | .ntsc, false => if line ≤ 234 then BitVec.ofNat 8 line else BitVec.ofNat 8 (line - 235 + 0xE5)
  | .ntsc, true => BitVec.ofNat 8 line
  | .pal, false => if line ≤ 258 then BitVec.ofNat 8 line else BitVec.ofNat 8 (line - 259 + 0x1CA)
  | .pal, true => if line ≤ 266 then BitVec.ofNat 8 line else BitVec.ofNat 8 (line - 267 + 0x1D2)

/-- The V half of the live counter in this state (R440). -/
def State.vLive (s : State) : Byte := vCounter s.cfg.region s.sched.frameV30 s.sched.curLine

/-- R441: `HvLive()`, the H half a fresh draw. -/
def State.hvLive (s : State) : Word × State := (mkWord s.vLive (s.draw 8).1, (s.draw 8).2)

/-- A scheduler flag written: VB (R431, R437). -/
def State.setVb (s : State) (b : Bool) : State := { s with sched := { s.sched with vb := b } }

/-- A scheduler flag written: HB (R432). -/
def State.setHb (s : State) (b : Bool) : State := { s with sched := { s.sched with hb := b } }

/-- A scheduler flag written: F (R437). -/
def State.setF (s : State) (b : Bool) : State := { s with sched := { s.sched with f := b } }

/-- The scheduler's segment (R74). -/
def State.setPhase (s : State) (p : Phase) : State := { s with sched := { s.sched with phase := p } }

/-- The scheduler's line (R74). -/
def State.setLine (s : State) (n : Nat) : State := { s with sched := { s.sched with curLine := n } }

end Sys2Proof.Machine
end

