-- ==== Sys2Proof/Machine/Dma.lean ====
section
/-! DEFINITION. The DMA transfer controller (42_dma.md R320-R331) and its source read (40_bus.md R222). Every run is one
atomic function of the state (R328). -/

namespace Sys2Proof.Machine

/-! ### Source read -/

/-- R222: `DmaSourceRead16(s)`: ROM, its mirror and work RAM are read without side effect; any other region gives a draw. -/
def State.dmaSourceRead16 (s : State) (src : Addr) : Word × State :=
  let e := src &&& 0xFFFFFE
  match classify e.toNat with
  | .rom | .romMirror => (mkWord (s.bus.romByte e) (s.bus.romByte (e + 1)), s)
  | .ram => (mkWord (s.bus.ramByte e) (s.bus.ramByte (e + 1)), s)
  | .soundRam | .synth | .soundBank | .soundVdp | .soundRomView | .io | .busReq | .soundReset | .vdp | .unmapped =>
    s.draw 16

/-! ### Length -/

/-- R321: `DmaLength()`, 0 encoded as 65536. -/
def VdpState.dmaLength (v : VdpState) : Nat := if v.lenReg = 0 then 65536 else v.lenReg.toNat

/-- The length registers zeroed (R324, R326, R327). -/
def VdpState.clearLength (v : VdpState) : VdpState := (v.setR 19 0).setR 20 0

/-! ### Modes 0/1 -/

/-- R323: the next source address; the low 17 bits wrap within the 128 KiB block. -/
def nextSource (src : Addr) (inc : Word) : Addr := (src &&& 0xFE0000) ||| ((src + inc.setWidth 24) &&& 0x01FFFF)

/-- One word of R322's loop: read, push, store, advance destination and source. -/
def dma68kWord (p : State × Addr) : State × Addr :=
  let r := p.1.dmaSourceRead16 p.2
  let v := ((r.2.vdp.fifoPush r.1).storeWord r.1).addrAdvance
  ({ r.2 with vdp := v }, nextSource p.2 v.inc)

/-- R324: `DmaPostUpdate(src)`. -/
def VdpState.dmaPostUpdate (v : VdpState) (src : Addr) : VdpState :=
  ((v.setR 21 (src.extractLsb' 1 8)).setR 22 (src.extractLsb' 9 8)).clearLength

/-- R322: `Dma68k()`. -/
def State.dma68k (s : State) : State :=
  let p := dma68kWord^[s.vdp.dmaLength] (s, s.vdp.cpuSource)
  { p.1 with vdp := p.1.vdp.dmaPostUpdate p.2 }

/-! ### Mode 2 -/

/-- R325: the fill is armed, nothing else changes. -/
def VdpState.fillArm (v : VdpState) : VdpState := { v with fillPending := true }

/-- One iteration of R326's loop. -/
def VdpState.fillStep (w : Word) (v : VdpState) : VdpState :=
  (match writeRow v.code with
   | .vram => v.vramWrite (v.addr ^^^ 1) (hiByte w)
   | .cram => v.cramStore (entryIndex v.addr) w
   | .vsram => v.vsramStore (entryIndex v.addr) w
   | .notarget => v
   | .readcode => v).addrAdvance

/-- R326: `RunFill(v)`. -/
def VdpState.runFill (v : VdpState) (w : Word) : VdpState := ((VdpState.fillStep w)^[v.dmaLength] v).clearLength

/-- R280's last step: an armed fill is disarmed and runs. -/
def VdpState.fireFill (v : VdpState) (w : Word) : VdpState := { v with fillPending := false }.runFill w

/-! ### Mode 3 -/

/-- One byte of R327's loop. -/
def copyByte (p : VdpState × Word) : VdpState × Word :=
  ((p.1.vramWrite p.1.addr (p.1.vramRead p.2)).addrAdvance, p.2 + p.1.inc)

/-- R327: `DmaCopy()`. -/
def VdpState.dmaCopy (v : VdpState) : VdpState :=
  let p := copyByte^[v.dmaLength] (v, v.copySource)
  ((p.1.setR 21 (loByte p.2)).setR 22 (hiByte p.2)).clearLength

/-! ### Trigger -/

/-- R320: `TriggerDma()`. -/
def State.triggerDma (s : State) : State :=
  match dmaModeOf s.vdp.dmaMode with
  | .cpuCopy => s.dma68k
  | .fill => { s with vdp := s.vdp.fillArm }
  | .vramCopy => { s with vdp := s.vdp.dmaCopy }

/-! ### The rows -/

/-- dma_source_read16 (R222). -/
def execDmaSourceRead16 (src : Addr) (s : State) : Host.Outcome State Fault Refusal :=
  answer (s.dmaSourceRead16 src).2 (.word (s.dmaSourceRead16 src).1)

/-- dma_68k (R322). -/
def execDma68k (s : State) : Host.Outcome State Fault Refusal := finish s.dma68k

/-- dma_fill_arm (R325). -/
def execDmaFillArm (s : State) : Host.Outcome State Fault Refusal := finish { s with vdp := s.vdp.fillArm }

/-- dma_fill_fire (R326, R280): the step a data-port write ends with while a fill is armed (log 19). -/
def execDmaFillFire (v : Word) (s : State) : Host.Outcome State Fault Refusal :=
  finish { s with vdp := s.vdp.fireFill v }

/-- dma_copy (R327). -/
def execDmaCopy (s : State) : Host.Outcome State Fault Refusal := finish { s with vdp := s.vdp.dmaCopy }

/-- dma_disabled (R329): no DMA runs and nothing changes. -/
def execDmaDisabled (s : State) : Host.Outcome State Fault Refusal := finish s

end Sys2Proof.Machine
end

