-- ==== Sys2Proof/Machine/Ports.lean ====
section
/-! DEFINITION. The VDP register file and port protocol (41_vdp_ports.md R260-R306): control words, data-port accesses under
the access code, status, H/V counter, PSG and unused offsets, and the byte and long forms. -/

namespace Sys2Proof.Machine

/-! ### Control port -/

/-- R265: `LatchClear()`. -/
def VdpState.latchClear (v : VdpState) : VdpState := { v with code := v.code &&& 0x3C, addr := v.addr &&& 0xC000 }

/-- R264: `HvLatchUpdate(old, v)`. -/
def State.hvLatchUpdate (s : State) (old v : Byte) : State :=
  if old.getLsbD 1 = false ∧ v.getLsbD 1 = true then
    { s.hvLive.2 with vdp := { s.vdp with hvLatchValue := s.hvLive.1 } }
  else s

/-- R262's guarded part: the register written, with register 0's side effect. -/
def State.regStore (s : State) (r : BitVec 5) (v : Byte) : State :=
  if s.vdp.regWritable r then
    if r = 0 then { s with vdp := s.vdp.setR r.toFin v }.hvLatchUpdate (s.vdp.r r.toFin) v
    else { s with vdp := s.vdp.setR r.toFin v }
  else s

/-- R262: `RegWrite(r, v)`. -/
def State.regWrite (s : State) (r : BitVec 5) (v : Byte) : State :=
  { s.regStore r v with vdp := (s.regStore r v).vdp.latchClear }

/-- R267: `CmdWord1(w)`, the low parts of the command at once, and the latch Pending. -/
def VdpState.cmdWord1 (v : VdpState) (cd10 : BitVec 2) (a : BitVec 14) : VdpState :=
  { v with code := v.code.extractLsb' 2 4 ++ cd10, addr := v.addr.extractLsb' 14 2 ++ a, pending := true }

/-- R268: the high parts of the command, and the latch Idle. -/
def VdpState.cmdWord2 (v : VdpState) (cd52 : BitVec 4) (a : BitVec 2) : VdpState :=
  { v with code := cd52 ++ v.code.extractLsb' 0 2, addr := a ++ v.addr.extractLsb' 0 14, pending := false }

/-- R268: `CmdWord2(w)`, with the DMA it triggers. -/
def State.cmdWord2 (s : State) (cd52 : BitVec 4) (a : BitVec 2) : State :=
  let t : State := { s with vdp := s.vdp.cmdWord2 cd52 a }
  if t.vdp.code.getLsbD 5 && t.vdp.dmaEnable then t.triggerDma else t

/-- R261: `CtrlWrite(w)`. -/
def State.ctrlWrite (s : State) (w : Word) : State :=
  if s.vdp.pending then s.cmdWord2 (w.extractLsb' 4 4) (w.extractLsb' 0 2)
  else if w.extractLsb' 14 2 == 0b10 then s.regWrite (w.extractLsb' 8 5) (w.extractLsb' 0 8)
  else { s with vdp := s.vdp.cmdWord1 (w.extractLsb' 14 2) (w.extractLsb' 0 14) }

/-! ### Data-port writes -/

/-- R280's first two lines, common to every row. -/
def VdpState.dataBegin (v : VdpState) (w : Word) : VdpState := v.clearPending.fifoPush w

/-- R280's last lines, common to every row: an armed fill fires. -/
def VdpState.dataEnd (v : VdpState) (w : Word) : VdpState := if v.fillPending then v.fireFill w else v

/-- R282. -/
def VdpState.writeVram (v : VdpState) (w : Word) : VdpState :=
  (((v.dataBegin w).vramWritePair v.addr w).addrAdvance).dataEnd w

/-- R283. -/
def VdpState.writeCram (v : VdpState) (w : Word) : VdpState :=
  (((v.dataBegin w).cramStore (entryIndex v.addr) w).addrAdvance).dataEnd w

/-- R284. -/
def VdpState.writeVsram (v : VdpState) (w : Word) : VdpState :=
  (((v.dataBegin w).vsramStore (entryIndex v.addr) w).addrAdvance).dataEnd w

/-- R285. -/
def VdpState.writeNotarget (v : VdpState) (w : Word) : VdpState := ((v.dataBegin w).addrAdvance).dataEnd w

/-- R287. -/
def VdpState.writeReadcode (v : VdpState) (w : Word) : VdpState := (v.dataBegin w).dataEnd w

/-- R280: `DataWrite(v)`, the row selected by the access code (R145). -/
def VdpState.dataWrite (v : VdpState) (w : Word) : VdpState :=
  match writeRow v.code with
  | .vram => v.writeVram w
  | .cram => v.writeCram w
  | .vsram => v.writeVsram w
  | .notarget => v.writeNotarget w
  | .readcode => v.writeReadcode w

/-! ### Data-port reads -/

/-- What a read under a valid read code does to the VDP: the latch Idle, the address advanced (R290, R286). -/
def VdpState.afterRead (v : VdpState) : VdpState := v.clearPending.addrAdvance

/-- R291: the value of a VRAM read. -/
def VdpState.readVram (v : VdpState) : Word := v.vramReadWord v.addr

/-- R292: the value of a VSRAM read, blended with the oldest FIFO word outside VSRAM_MASK. -/
def VdpState.readVsram (v : VdpState) (mask : Word) : Word :=
  (v.vsramAt (entryIndex v.addr) &&& mask) ||| (v.fifo[3] &&& ~~~mask)

/-- R293: the value of a CRAM read, blended outside 0x0EEE. -/
def VdpState.readCram (v : VdpState) : Word := (v.cramAt (entryIndex v.addr) &&& 0x0EEE#16) ||| (v.fifo[3] &&& 0xF111#16)

/-- R294: the value of an 8-bit VRAM read. -/
def VdpState.readVram8 (v : VdpState) : Word := mkWord (hiByte v.fifo[3]) (v.vramRead (v.addr ^^^ 1))

/-- R295: a read under any other code: a draw; only the latch changes. -/
def State.readInvalid (s : State) : Word × State :=
  ((s.draw 16).1, { (s.draw 16).2 with vdp := s.vdp.clearPending })

/-- R290: `DataRead()`, the row selected by the access code (R145). -/
def State.dataRead (s : State) : Word × State :=
  match readRow s.vdp.code with
  | .vram => (s.vdp.readVram, { s with vdp := s.vdp.afterRead })
  | .vsram => (s.vdp.readVsram s.cfg.vsramMask, { s with vdp := s.vdp.afterRead })
  | .cram => (s.vdp.readCram, { s with vdp := s.vdp.afterRead })
  | .vram8 => (s.vdp.readVram8, { s with vdp := s.vdp.afterRead })
  | .invalid => s.readInvalid

/-! ### Status, H/V counter, PSG -/

/-- R300: `StatusRead()`. -/
def State.statusRead (s : State) : Word × State :=
  (s.statusWord (s.draw 6).1, { (s.draw 6).2 with vdp := s.vdp.clearPending })

/-- R301: `HVRead()`. -/
def State.hvRead (s : State) : Word × State := if s.vdp.hvLatched then (s.vdp.hvLatchValue, s) else s.hvLive

/-- R303: a PSG write sends the low byte to the sink. -/
def State.psgWrite (s : State) (v : Word) : State := s.call (.psgWrite (loByte v))

/-! ### Port dispatch (R260) -/

/-- R260: `VdpRead16(off)`. -/
def State.vdpRead16 (s : State) (off : BitVec 5) : Word × State :=
  match portRow off with
  | .data => s.dataRead
  | .control => s.statusRead
  | .hv => s.hvRead
  | .psg => (0xFFFF, s)
  | .unused => (0xFFFF, s)

/-- R260: `VdpWrite16(off, v)`. -/
def State.vdpWrite16 (s : State) (off : BitVec 5) (v : Word) : State :=
  match portRow off with
  | .data => { s with vdp := s.vdp.dataWrite v }
  | .control => s.ctrlWrite v
  | .hv => s
  | .psg => s.psgWrite v
  | .unused => s

/-- R305: `VdpRead8(off)`. -/
def State.vdpRead8 (s : State) (off : BitVec 5) : Byte × State :=
  let r := s.vdpRead16 (off &&& 0x1E)
  (if off.getLsbD 0 then loByte r.1 else hiByte r.1, r.2)

/-- R305: `VdpWrite8(off, b)`. -/
def State.vdpWrite8 (s : State) (off : BitVec 5) (b : Byte) : State := s.vdpWrite16 (off &&& 0x1E) (mkWord b b)

/-- R306: a long read of the ports, high half first. The second offset wraps as the ports repeat (log 11). -/
def State.vdpRead32 (s : State) (off : BitVec 5) : Long × State :=
  let h := s.vdpRead16 (off &&& 0x1E)
  let l := h.2.vdpRead16 ((off &&& 0x1E) + 2)
  (h.1 ++ l.1, l.2)

/-- R306: a long write of the ports, high half first. -/
def State.vdpWrite32 (s : State) (off : BitVec 5) (v : Long) : State :=
  (s.vdpWrite16 (off &&& 0x1E) (hiWord v)).vdpWrite16 ((off &&& 0x1E) + 2) (loWord v)

/-- A word access to a port. -/
def State.portAccess (s : State) (off : BitVec 5) (acc : Access 16) : Host.Outcome State Fault Refusal :=
  match acc with
  | .read => answer (s.vdpRead16 off).2 (.word (s.vdpRead16 off).1)
  | .write v => finish (s.vdpWrite16 off v)

/-! ### The rows -/

/-- vdp_data_port (R151, R260): read R290, write R280. -/
def execVdpDataPort (off : BitVec 5) (acc : Access 16) (s : State) : Host.Outcome State Fault Refusal :=
  s.portAccess off acc

/-- vdp_control_port (R151, R260): read R300, write R261. -/
def execVdpControlPort (off : BitVec 5) (acc : Access 16) (s : State) : Host.Outcome State Fault Refusal :=
  s.portAccess off acc

/-- vdp_hv_port (R151, R260): read R301, write R302. -/
def execVdpHvPort (off : BitVec 5) (acc : Access 16) (s : State) : Host.Outcome State Fault Refusal :=
  s.portAccess off acc

/-- vdp_psg_port (R151, R260, R303). -/
def execVdpPsgPort (off : BitVec 5) (acc : Access 16) (s : State) : Host.Outcome State Fault Refusal :=
  s.portAccess off acc

/-- vdp_unused_port (R151, R260, R304). -/
def execVdpUnusedPort (off : BitVec 5) (acc : Access 16) (s : State) : Host.Outcome State Fault Refusal :=
  s.portAccess off acc

/-- ctrl_regwrite (R262); bit 13 is ignored. -/
def execCtrlRegwrite (r : BitVec 5) (v : Byte) (s : State) : Host.Outcome State Fault Refusal := finish (s.regWrite r v)

/-- ctrl_cmd1 (R267). -/
def execCtrlCmd1 (cd10 : BitVec 2) (a : BitVec 14) (s : State) : Host.Outcome State Fault Refusal :=
  finish { s with vdp := s.vdp.cmdWord1 cd10 a }

/-- ctrl_cmd2 (R268); bits 15:8 and 3:2 are ignored. -/
def execCtrlCmd2 (cd52 : BitVec 4) (a : BitVec 2) (s : State) : Host.Outcome State Fault Refusal :=
  finish (s.cmdWord2 cd52 a)

/-- data_write_vram (R282). -/
def execDataWriteVram (v : Word) (s : State) : Host.Outcome State Fault Refusal :=
  finish { s with vdp := s.vdp.writeVram v }

/-- data_write_cram (R283). -/
def execDataWriteCram (v : Word) (s : State) : Host.Outcome State Fault Refusal :=
  finish { s with vdp := s.vdp.writeCram v }

/-- data_write_vsram (R284). -/
def execDataWriteVsram (v : Word) (s : State) : Host.Outcome State Fault Refusal :=
  finish { s with vdp := s.vdp.writeVsram v }

/-- data_write_notarget (R285). -/
def execDataWriteNotarget (v : Word) (s : State) : Host.Outcome State Fault Refusal :=
  finish { s with vdp := s.vdp.writeNotarget v }

/-- data_write_readcode (R287). -/
def execDataWriteReadcode (v : Word) (s : State) : Host.Outcome State Fault Refusal :=
  finish { s with vdp := s.vdp.writeReadcode v }

/-- data_read_vram (R291). -/
def execDataReadVram (s : State) : Host.Outcome State Fault Refusal :=
  answer { s with vdp := s.vdp.afterRead } (.word s.vdp.readVram)

/-- data_read_vsram (R292). -/
def execDataReadVsram (s : State) : Host.Outcome State Fault Refusal :=
  answer { s with vdp := s.vdp.afterRead } (.word (s.vdp.readVsram s.cfg.vsramMask))

/-- data_read_cram (R293). -/
def execDataReadCram (s : State) : Host.Outcome State Fault Refusal :=
  answer { s with vdp := s.vdp.afterRead } (.word s.vdp.readCram)

/-- data_read_vram8 (R294). -/
def execDataReadVram8 (s : State) : Host.Outcome State Fault Refusal :=
  answer { s with vdp := s.vdp.afterRead } (.word s.vdp.readVram8)

/-- data_read_invalid (R295). -/
def execDataReadInvalid (s : State) : Host.Outcome State Fault Refusal :=
  answer s.readInvalid.2 (.word s.readInvalid.1)

/-- status_read (R300). -/
def execStatusRead (s : State) : Host.Outcome State Fault Refusal := answer s.statusRead.2 (.word s.statusRead.1)

/-- hv_read (R301). -/
def execHvRead (s : State) : Host.Outcome State Fault Refusal := answer s.hvRead.2 (.word s.hvRead.1)

/-- hv_write (R302): no effect. -/
def execHvWrite (s : State) : Host.Outcome State Fault Refusal := finish s

/-- psg_write (R303). -/
def execPsgWrite (v : Word) (s : State) : Host.Outcome State Fault Refusal := finish (s.psgWrite v)

/-- psg_read (R303). -/
def execPsgRead (s : State) : Host.Outcome State Fault Refusal := answer s (.word 0xFFFF)

/-- vdp_unused (R304): reads give 0xFFFF, writes have no effect. -/
def execVdpUnused (acc : Access 16) (s : State) : Host.Outcome State Fault Refusal :=
  match acc with
  | .read => answer s (.word 0xFFFF)
  | .write _ => finish s

/-- vdp_byte_access (R305). -/
def execVdpByteAccess (off : BitVec 5) (acc : Access 8) (s : State) : Host.Outcome State Fault Refusal :=
  match acc with
  | .read => answer (s.vdpRead8 off).2 (.byte (s.vdpRead8 off).1)
  | .write b => finish (s.vdpWrite8 off b)

/-- vdp_long_access (R306). -/
def execVdpLongAccess (off : BitVec 5) (acc : Access 32) (s : State) : Host.Outcome State Fault Refusal :=
  match acc with
  | .read => answer (s.vdpRead32 off).2 (.long (s.vdpRead32 off).1)
  | .write v => finish (s.vdpWrite32 off v)

end Sys2Proof.Machine
end

