-- ==== Sys2Proof/Machine/Bus.lean ====
section
/-! DEFINITION. The memory bus router (40_bus.md R201-R221): the byte handlers of every region, the primary-CPU transactions
built from them, and the sound-CPU transactions. Every region has its own handler and none continues into another (R223). -/

namespace Sys2Proof.Machine

/-! ### Region handlers -/

/-- R208: the I/O port of an address, `(a | 1) & 0x1F`. -/
def ioOffset (a : Addr) : BitVec 5 := (a ||| 1).extractLsb' 0 5

/-- R209: a read of the bus-request register: bit 0 of the even byte is 0 when the bus is granted; the rest is a draw. -/
def State.busReqRead (s : State) (a : Addr) : Byte × State :=
  if a.getLsbD 0 then s.draw 8 else ((s.draw 7).1 ++ BitVec.ofBool (!s.bus.busReq), (s.draw 7).2)

/-- R209: a write of the bus-request register, at an even address only. -/
def State.busReqWrite (s : State) (a : Addr) (b : Byte) : State :=
  if a.getLsbD 0 then s
  else { s with bus := { s.bus with busReq := b.getLsbD 0 } }.call (.setBusRequest (b.getLsbD 0))

/-- R210: a write of the reset register, at an even address only; 0 holds the sound CPU in reset. -/
def State.soundResetWrite (s : State) (a : Addr) (b : Byte) : State :=
  if a.getLsbD 0 then s
  else { s with bus := { s.bus with soundReset := b.getLsbD 0 } }.call (.setReset (!b.getLsbD 0))

/-- `rd8(region, a)` (R201-R213). -/
def State.rd8 (s : State) (r : Region) (a : Addr) : Byte × State :=
  match r with
  | .rom => (s.bus.romByte a, s)
  | .romMirror => (s.bus.romByte a, s)
  | .soundRam => (s.bus.soundByte s.cfg.soundRamMask a, s)
  | .synth => s.synthRead (a.extractLsb' 0 2)
  | .soundBank => (0xFF, s)
  | .soundVdp => (0xFF, s)
  | .soundRomView => (0xFF, s)
  | .io => s.ioRead (ioOffset a)
  | .busReq => s.busReqRead a
  | .soundReset => s.draw 8
  | .vdp => s.vdpRead8 (a.extractLsb' 0 5)
  | .ram => (s.bus.ramByte a, s)
  | .unmapped => (0xFF, s)

/-- `wr8(region, a, b)` (R201-R213). -/
def State.wr8 (s : State) (r : Region) (a : Addr) (b : Byte) : State :=
  match r with
  | .rom => s
  | .romMirror => s
  | .soundRam => { s with bus := s.bus.soundStore s.cfg.soundRamMask a b }
  | .synth => s.call (.synthWrite (a.extractLsb' 0 2) b)
  | .soundBank => { s with bus := { s.bus with bank := bankShift s.bus.bank b } }
  | .soundVdp => s
  | .soundRomView => s
  | .io => s.call (.ioWrite (ioOffset a) b)
  | .busReq => s.busReqWrite a b
  | .soundReset => s.soundResetWrite a b
  | .vdp => s.vdpWrite8 (a.extractLsb' 0 5) b
  | .ram => { s with bus := s.bus.ramStore a b }
  | .unmapped => s

/-! ### Primary-CPU transactions -/

/-- R107: the address of a wide access, bit 0 ignored. -/
def evenAddr (a : Addr) : Addr := a &&& 0xFFFFFE

/-- R214: `BusRead8(a)`. -/
def State.busRead8 (s : State) (a : Addr) : Byte × State := s.rd8 (classify a.toNat) a

/-- R215: a read of an 8-bit device by a word access, one byte read and duplicated. -/
def State.readTwice (s : State) (r : Region) (e : Addr) : Word × State :=
  (mkWord (s.rd8 r e).1 (s.rd8 r e).1, (s.rd8 r e).2)

/-- R215: `BusRead16(a)`. -/
def State.busRead16 (s : State) (a : Addr) : Word × State :=
  let e := evenAddr a
  match classify e.toNat with
  | .rom => (mkWord (s.bus.romByte e) (s.bus.romByte (e + 1)), s)
  | .romMirror => (mkWord (s.bus.romByte e) (s.bus.romByte (e + 1)), s)
  | .ram => (mkWord (s.bus.ramByte e) (s.bus.ramByte (e + 1)), s)
  | .soundRam => s.readTwice .soundRam e
  | .synth => s.readTwice .synth e
  | .soundBank => s.readTwice .soundBank e
  | .io => s.readTwice .io e
  | .busReq => s.readTwice .busReq e
  | .soundReset => s.readTwice .soundReset e
  | .vdp => s.vdpRead16 (e.extractLsb' 0 5)
  | .soundVdp => (0xFFFF, s)
  | .soundRomView => (0xFFFF, s)
  | .unmapped => (0xFFFF, s)

/-- R216: `BusRead32(a)`, the high half first. -/
def State.busRead32 (s : State) (a : Addr) : Long × State :=
  let h := s.busRead16 (evenAddr a)
  let l := h.2.busRead16 (evenAddr a + 2)
  (h.1 ++ l.1, l.2)

/-- R217: `BusWrite8(a, b)`. -/
def State.busWrite8 (s : State) (a : Addr) (b : Byte) : State := s.wr8 (classify a.toNat) a b

/-- R218: `BusWrite16(a, v)`. -/
def State.busWrite16 (s : State) (a : Addr) (v : Word) : State :=
  let e := evenAddr a
  match classify e.toNat with
  | .ram => (s.wr8 .ram e (hiByte v)).wr8 .ram (e + 1) (loByte v)
  | .rom => s
  | .romMirror => s
  | .soundRam => s.wr8 .soundRam e (hiByte v)
  | .synth => s.wr8 .synth e (hiByte v)
  | .soundBank => s.wr8 .soundBank e (hiByte v)
  | .busReq => s.wr8 .busReq e (hiByte v)
  | .soundReset => s.wr8 .soundReset e (hiByte v)
  | .io => s.wr8 .io e (loByte v)
  | .vdp => s.vdpWrite16 (e.extractLsb' 0 5) v
  | .soundVdp => s
  | .soundRomView => s
  | .unmapped => s

/-- R219: `BusWrite32(a, v)`, the high half first. -/
def State.busWrite32 (s : State) (a : Addr) (v : Long) : State :=
  (s.busWrite16 (evenAddr a) (hiWord v)).busWrite16 (evenAddr a + 2) (loWord v)

/-! ### Sound-CPU transactions -/

/-- R112, R220: the primary address of the bank window, `(bank << 15) | (z & 0x7FFF)`. -/
def bankTarget (bank : BitVec 9) (z : Word) : Addr := bank ++ z.extractLsb' 0 15

/-- R112: whether a bank-window target is in the sound window, which is treated as unmapped. -/
def inSoundWindow (t : Addr) : Bool := decide (0xA00000 ≤ t.toNat) && decide (t.toNat ≤ 0xA0FFFF)

/-- R220: the primary-bus form of a sound address below 0x8000, `0xA00000 | z`. -/
def soundWindowAddr (z : Word) : Addr := (0xA0#8) ++ z

/-- R220: `SoundRead8(z)`. -/
def State.soundRead8 (s : State) (z : Word) : Byte × State :=
  if z.toNat < 0x8000 then
    match classify (soundWindowAddr z).toNat with
    | .soundRam => s.rd8 .soundRam (soundWindowAddr z)
    | .synth => s.rd8 .synth (soundWindowAddr z)
    | .soundBank => s.rd8 .soundBank (soundWindowAddr z)
    | .soundVdp => s.vdpRead8 (z.extractLsb' 0 5)
    | .rom | .romMirror | .soundRomView | .io | .busReq | .soundReset | .vdp | .ram | .unmapped => (0xFF, s)
  else if inSoundWindow (bankTarget s.bus.bank z) then (0xFF, s)
  else s.busRead8 (bankTarget s.bus.bank z)

/-- R221: `SoundWrite8(z, b)`. -/
def State.soundWrite8 (s : State) (z : Word) (b : Byte) : State :=
  if z.toNat < 0x8000 then
    match classify (soundWindowAddr z).toNat with
    | .soundRam => s.wr8 .soundRam (soundWindowAddr z) b
    | .synth => s.wr8 .synth (soundWindowAddr z) b
    | .soundBank => s.wr8 .soundBank (soundWindowAddr z) b
    | .soundVdp => s.vdpWrite8 (z.extractLsb' 0 5) b
    | .rom | .romMirror | .soundRomView | .io | .busReq | .soundReset | .vdp | .ram | .unmapped => s
  else if inSoundWindow (bankTarget s.bus.bank z) then s
  else s.busWrite8 (bankTarget s.bus.bank z) b

/-! ### Transactions with their replies -/

/-- D3: a transaction's address, reduced to bits 23:0. -/
def busAddr (a : Long) : Addr := a.setWidth 24

/-- One primary-CPU transaction and what it returns. -/
def State.busOp (s : State) (op : BusOp) : Reply × State :=
  match op with
  | .read8 a => (.byte (s.busRead8 (busAddr a)).1, (s.busRead8 (busAddr a)).2)
  | .read16 a => (.word (s.busRead16 (busAddr a)).1, (s.busRead16 (busAddr a)).2)
  | .read32 a => (.long (s.busRead32 (busAddr a)).1, (s.busRead32 (busAddr a)).2)
  | .write8 a v => (.done, s.busWrite8 (busAddr a) v)
  | .write16 a v => (.done, s.busWrite16 (busAddr a) v)
  | .write32 a v => (.done, s.busWrite32 (busAddr a) v)

/-- One sound-CPU transaction and what it returns. -/
def State.soundOp (s : State) (op : SoundOp) : Reply × State :=
  match op with
  | .read8 z => (.byte (s.soundRead8 z).1, (s.soundRead8 z).2)
  | .write8 z b => (.done, s.soundWrite8 z b)

/-- A byte access through a region's handlers. -/
def State.regionAccess (s : State) (r : Region) (a : Addr) (acc : Access 8) : Host.Outcome State Fault Refusal :=
  match acc with
  | .read => answer (s.rd8 r a).2 (.byte (s.rd8 r a).1)
  | .write b => finish (s.wr8 r a b)

/-! ### The rows -/

/-- read8 (R214). -/
def execRead8 (a : Long) (s : State) : Host.Outcome State Fault Refusal :=
  answer (s.busOp (.read8 a)).2 (s.busOp (.read8 a)).1

/-- read16 (R215). -/
def execRead16 (a : Long) (s : State) : Host.Outcome State Fault Refusal :=
  answer (s.busOp (.read16 a)).2 (s.busOp (.read16 a)).1

/-- read32 (R216). -/
def execRead32 (a : Long) (s : State) : Host.Outcome State Fault Refusal :=
  answer (s.busOp (.read32 a)).2 (s.busOp (.read32 a)).1

/-- write8 (R217). -/
def execWrite8 (a : Long) (v : Byte) (s : State) : Host.Outcome State Fault Refusal :=
  answer (s.busOp (.write8 a v)).2 (s.busOp (.write8 a v)).1

/-- write16 (R218). -/
def execWrite16 (a : Long) (v : Word) (s : State) : Host.Outcome State Fault Refusal :=
  answer (s.busOp (.write16 a v)).2 (s.busOp (.write16 a v)).1

/-- write32 (R219). -/
def execWrite32 (a : Long) (v : Long) (s : State) : Host.Outcome State Fault Refusal :=
  answer (s.busOp (.write32 a v)).2 (s.busOp (.write32 a v)).1

/-- sread8 (R220). -/
def execSread8 (z : Word) (s : State) : Host.Outcome State Fault Refusal :=
  answer (s.soundOp (.read8 z)).2 (s.soundOp (.read8 z)).1

/-- swrite8 (R221). -/
def execSwrite8 (z : Word) (b : Byte) (s : State) : Host.Outcome State Fault Refusal :=
  answer (s.soundOp (.write8 z b)).2 (s.soundOp (.write8 z b)).1

/-- region_rom (R201). -/
def execRegionRom (a : Addr) (acc : Access 8) (s : State) : Host.Outcome State Fault Refusal :=
  s.regionAccess .rom a acc

/-- region_rommirror (R202). -/
def execRegionRommirror (a : Addr) (acc : Access 8) (s : State) : Host.Outcome State Fault Refusal :=
  s.regionAccess .romMirror a acc

/-- region_rommirror_2 (R202). -/
def execRegionRommirror2 (a : Addr) (acc : Access 8) (s : State) : Host.Outcome State Fault Refusal :=
  s.regionAccess .romMirror a acc

/-- region_soundram (R204). -/
def execRegionSoundram (a : Addr) (acc : Access 8) (s : State) : Host.Outcome State Fault Refusal :=
  s.regionAccess .soundRam a acc

/-- region_synth (R205). -/
def execRegionSynth (a : Addr) (acc : Access 8) (s : State) : Host.Outcome State Fault Refusal :=
  s.regionAccess .synth a acc

/-- region_soundbank (R206). -/
def execRegionSoundbank (a : Addr) (acc : Access 8) (s : State) : Host.Outcome State Fault Refusal :=
  s.regionAccess .soundBank a acc

/-- region_soundvdp (R207). -/
def execRegionSoundvdp (a : Addr) (acc : Access 8) (s : State) : Host.Outcome State Fault Refusal :=
  s.regionAccess .soundVdp a acc

/-- region_unmapped (R213). -/
def execRegionUnmapped (a : Addr) (acc : Access 8) (s : State) : Host.Outcome State Fault Refusal :=
  s.regionAccess .unmapped a acc

/-- region_soundromview (R207). -/
def execRegionSoundromview (a : Addr) (acc : Access 8) (s : State) : Host.Outcome State Fault Refusal :=
  s.regionAccess .soundRomView a acc

/-- region_io (R208). -/
def execRegionIo (a : Addr) (acc : Access 8) (s : State) : Host.Outcome State Fault Refusal :=
  s.regionAccess .io a acc

/-- region_busreq (R209). -/
def execRegionBusreq (a : Addr) (acc : Access 8) (s : State) : Host.Outcome State Fault Refusal :=
  s.regionAccess .busReq a acc

/-- region_soundreset (R210). -/
def execRegionSoundreset (a : Addr) (acc : Access 8) (s : State) : Host.Outcome State Fault Refusal :=
  s.regionAccess .soundReset a acc

/-- region_unmapped_2 (R213). -/
def execRegionUnmapped2 (a : Addr) (acc : Access 8) (s : State) : Host.Outcome State Fault Refusal :=
  s.regionAccess .unmapped a acc

/-- region_vdp (R211). -/
def execRegionVdp (a : Addr) (acc : Access 8) (s : State) : Host.Outcome State Fault Refusal :=
  s.regionAccess .vdp a acc

/-- region_ram (R212). -/
def execRegionRam (a : Addr) (acc : Access 8) (s : State) : Host.Outcome State Fault Refusal :=
  s.regionAccess .ram a acc

/-- region_unmapped_3 (R213). -/
def execRegionUnmapped3 (a : Addr) (acc : Access 8) (s : State) : Host.Outcome State Fault Refusal :=
  s.regionAccess .unmapped a acc

end Sys2Proof.Machine
end

