-- ==== Sys2Proof/Machine/Compositor.lean ====
section
/-! DEFINITION. The scanline compositor (43_compositor.md R360-R380). R362's overdraw is written pixel by pixel: a layer
either has a colour for the pixel, which covers what is below it, or leaves it untouched. A line is a function of the VDP
state alone (R378). -/

namespace Sys2Proof.Machine

/-- The two scrolled planes. -/
inductive Plane where
  | a | b
  deriving DecidableEq, Repr

/-- R362: what a layer leaves of the pixel below it. -/
def cover (layer : Option Word) (below : Word) : Word := layer.getD below

/-- R369: `Colour(pal, p)`. -/
def VdpState.colour (v : VdpState) (pal : BitVec 2) (p : BitVec 4) : Word := v.cramAt (pal ++ p) &&& 0x0EEE

/-- R361: the backdrop colour. -/
def VdpState.backdropColour (v : VdpState) : Word := v.cramAt v.backdrop &&& 0x0EEE

/-- R157, R368: pixel column `c`, row `r` of tile `t`. -/
def VdpState.tileNibble (v : VdpState) (t r c : Nat) : BitVec 4 :=
  let b := v.vram.read ((32 * t + 4 * r + c / 2) % 0x10000)
  if c % 2 = 0 then b.extractLsb' 4 4 else b.extractLsb' 0 4

/-- R156: the tile index of a nametable entry or sprite attribute. -/
def cellTile (e : Word) : Nat := (e.extractLsb' 0 11).toNat

/-- R156: its palette. -/
def cellPalette (e : Word) : BitVec 2 := e.extractLsb' 13 2

/-- R156: its priority. -/
def cellPriority (e : Word) : Bool := e.getLsbD 15

/-- R156: its vertical flip. -/
def cellVFlip (e : Word) : Bool := e.getLsbD 12

/-- R156: its horizontal flip. -/
def cellHFlip (e : Word) : Bool := e.getLsbD 11

/-- R368: the pixel value of an 8x8 cell, `fx` and `fy` below 8. -/
def VdpState.tilePixel (v : VdpState) (e : Word) (fx fy : Nat) : BitVec 4 :=
  v.tileNibble (cellTile e) (if cellVFlip e then 7 - fy else fy) (if cellHFlip e then 7 - fx else fx)

/-- R362's conditions 2 and 3: the colour of a pixel of the tier, unless it is transparent. -/
def VdpState.pixelColour (v : VdpState) (e : Word) (tier : Bool) (p : BitVec 4) : Option Word :=
  if cellPriority e = tier ∧ p ≠ 0 then some (v.colour (cellPalette e) p) else none

/-- R365: `HScroll(P, y)`. -/
def VdpState.hScroll (v : VdpState) (p : Plane) (y : Nat) : Nat :=
  let line : Nat :=
    if v.hscrollMode == 0 then 0
    else if v.hscrollMode == 1 then y % 8
    else if v.hscrollMode == 2 then y / 8 * 8
    else y
  let a := v.hsBase + BitVec.ofNat 16 (4 * line + (match p with | .a => 0 | .b => 2))
  (v.vramReadWord a &&& 0x3FF).toNat

/-- R366: the VSRAM entry of plane P at column x; indices wrap at 64 entries. -/
def VdpState.vScrollEntry (v : VdpState) (p : Plane) (x : Nat) : BitVec 6 :=
  let k : Nat := match p with | .a => 0 | .b => 1
  if v.vscrollColumns then BitVec.ofNat 6 (2 * (x / 16) + k) else BitVec.ofNat 6 k

/-- R366: `VScroll(P, x)`. -/
def VdpState.vScroll (v : VdpState) (p : Plane) (x : Nat) : Nat := (v.vsramAt (v.vScrollEntry p x) &&& 0x3FF).toNat

/-- R371: `Window(x, y)`. -/
def VdpState.inWindow (v : VdpState) (x y : Nat) : Bool :=
  let vband := if v.windowDown then decide (8 * v.windowV ≤ y) else decide (y < 8 * v.windowV)
  let hband := if v.windowRight then decide (16 * v.windowH ≤ x) else decide (x < 16 * v.windowH)
  vband || hband

/-- R367: a plane's column of pixels under screen column x. -/
def VdpState.planeX (v : VdpState) (p : Plane) (x y : Nat) : Nat :=
  (((x : Int) - (v.hScroll p y : Int)) % ((v.planeW * 8 : Nat) : Int)).toNat

/-- R367: a plane's row of pixels under screen line y. -/
def VdpState.planeY (v : VdpState) (p : Plane) (x y : Nat) : Nat := (y + v.vScroll p x) % (v.planeH * 8)

/-- R367: a plane's nametable base. -/
def VdpState.planeBase (v : VdpState) (p : Plane) : Word :=
  match p with
  | .a => v.baseA
  | .b => v.baseB

/-- R367: the nametable entry under a pixel, row-major, planeW entries a row. -/
def VdpState.planeEntry (v : VdpState) (p : Plane) (x y : Nat) : Word :=
  v.vramReadWord (v.planeBase p + BitVec.ofNat 16 (2 * (v.planeY p x y / 8 * v.planeW + v.planeX p x y / 8)))

/-- R367, R370: plane P's pixel; plane A draws outside the window only. -/
def VdpState.planePixel (v : VdpState) (p : Plane) (tier : Bool) (x y : Nat) : Option Word :=
  if p = .a ∧ v.inWindow x y = true then none
  else
    v.pixelColour (v.planeEntry p x y) tier
      (v.tilePixel (v.planeEntry p x y) (v.planeX p x y % 8) (v.planeY p x y % 8))

/-- R372: the window's nametable entry under a pixel. -/
def VdpState.windowEntry (v : VdpState) (x y : Nat) : Word :=
  v.vramReadWord (v.baseW + BitVec.ofNat 16 (2 * (y / 8 * (if v.h40 then 64 else 32) + x / 8)))

/-- R372: the window's pixel; it draws inside the window only and does not scroll. -/
def VdpState.windowPixel (v : VdpState) (tier : Bool) (x y : Nat) : Option Word :=
  if v.inWindow x y then
    v.pixelColour (v.windowEntry x y) tier (v.tilePixel (v.windowEntry x y) (x % 8) (y % 8))
  else none

/-! ### Sprites -/

/-- R160: a sprite entry's Y, from the cache. -/
def VdpState.spriteY (v : VdpState) (n : Nat) : Nat :=
  (mkWord (v.satCache.read (8 * n)) (v.satCache.read (8 * n + 1)) &&& 0x1FF).toNat

/-- R160: a sprite entry's size byte, from the cache. -/
def VdpState.spriteSize (v : VdpState) (n : Nat) : Byte := v.satCache.read (8 * n + 2)

/-- R160: a sprite entry's link, from the cache. -/
def VdpState.spriteLink (v : VdpState) (n : Nat) : Nat := ((v.satCache.read (8 * n + 3)).extractLsb' 0 7).toNat

/-- R160: a sprite's width in cells. -/
def VdpState.spriteW (v : VdpState) (n : Nat) : Nat := ((v.spriteSize n).extractLsb' 2 2).toNat + 1

/-- R160: a sprite's height in cells. -/
def VdpState.spriteH (v : VdpState) (n : Nat) : Nat := ((v.spriteSize n).extractLsb' 0 2).toNat + 1

/-- R160, R376: a sprite's attribute word, from VRAM. -/
def VdpState.spriteAttr (v : VdpState) (n : Nat) : Word := v.vramReadWord (v.satBase + BitVec.ofNat 16 (8 * n + 4))

/-- R160, R376: a sprite's X, from VRAM. -/
def VdpState.spriteX (v : VdpState) (n : Nat) : Nat :=
  (v.vramReadWord (v.satBase + BitVec.ofNat 16 (8 * n + 6)) &&& 0x1FF).toNat

/-- R374: `SpriteOnLine`, evaluated in integers. -/
def VdpState.spriteOnLine (v : VdpState) (n y : Nat) : Bool :=
  decide ((v.spriteY n : Int) - 128 ≤ y) && decide ((y : Int) < (v.spriteY n : Int) - 128 + 8 * v.spriteH n)

/-- R373's loop from entry n, with at most `visits` more visits. -/
def VdpState.spriteQueueFrom (v : VdpState) (y : Nat) : Nat → Nat → List Nat
  | 0, _ => []
  | visits + 1, n =>
    (if v.spriteOnLine n y then [n] else []) ++
      (if v.spriteLink n = 0 then [] else VdpState.spriteQueueFrom v y visits (v.spriteLink n))

/-- R373: `SpriteQueue(y)`: from entry 0, at most 80 visits. -/
def VdpState.spriteQueue (v : VdpState) (y : Nat) : List Nat := v.spriteQueueFrom y 80 0

/-- R376: sprite n's pixel at screen column x. -/
def VdpState.spritePixel (v : VdpState) (n : Nat) (tier : Bool) (x y : Nat) : Option Word :=
  let attr := v.spriteAttr n
  let row0 := ((y : Int) - ((v.spriteY n : Int) - 128)).toNat
  let row := if cellVFlip attr then 8 * v.spriteH n - 1 - row0 else row0
  let col := (x : Int) - ((v.spriteX n : Int) - 128)
  if 0 ≤ col ∧ col < 8 * v.spriteW n then
    let c := if cellHFlip attr then 8 * v.spriteW n - 1 - col.toNat else col.toNat
    let t := (cellTile attr + c / 8 * v.spriteH n + row / 8) % 0x800
    v.pixelColour attr tier (v.tileNibble t (row % 8) (c % 8))
  else none

/-- R375: the queue drawn in reverse order over a pixel, so that the first sprite found is on top. -/
def VdpState.spritesOver (v : VdpState) (q : List Nat) (tier : Bool) (x y : Nat) (below : Word) : Word :=
  q.foldr (fun n c => cover (v.spritePixel n tier x y) c) below

/-! ### The line -/

/-- R360: one tier over a pixel: plane B, plane A, sprites, window. -/
def VdpState.tierOver (v : VdpState) (q : List Nat) (tier : Bool) (x y : Nat) (below : Word) : Word :=
  cover (v.windowPixel tier x y)
    (v.spritesOver q tier x y (cover (v.planePixel .a tier x y) (cover (v.planePixel .b tier x y) below)))

/-- R360: the line buffer's colour word at column x after both tiers. -/
def VdpState.linePixel (v : VdpState) (q : List Nat) (x y : Nat) : Word :=
  v.tierOver q true x y (v.tierOver q false x y v.backdropColour)

/-- R360: `buf[x]` of line y. -/
def VdpState.buf (v : VdpState) (x y : Nat) : Word := v.linePixel (v.spriteQueue y) x y

/-- R360, R377: framebuffer row y after the render; columns from the width on are not written. -/
def VdpState.renderRow (v : VdpState) (p : Config.Params) (y : Nat) (old : Vector Long 320) : Vector Long 320 :=
  let q := v.spriteQueue y
  Vector.ofFn fun x => if x.val < v.width then packColor p (v.linePixel q x.val y) else old[x]

/-- R360: `RenderLine(y)`, for a row of the framebuffer; no row exists from 240 on (R75). -/
def State.renderLine (s : State) (y : Nat) : State :=
  if h : y < 240 then { s with fb := s.fb.set y (s.vdp.renderRow s.cfg y s.fb[y]) } else s

/-- R435: the render gate, on a line the scheduler has found visible. -/
def State.renderIfOn (s : State) (y : Nat) : State := if s.vdp.displayOn then s.renderLine y else s

/-- R379: a line is rendered only if visible and only with the display on. Of a line requested between frames, the height
the registers select now says whether it is visible (log 12). -/
def State.renderVisible (s : State) (y : Nat) : State := if y < s.vdp.height then s.renderIfOn y else s

/-- render_line (R360, R379). -/
def execRenderLine (y : Byte) (s : State) : Host.Outcome State Fault Refusal := finish (s.renderVisible y.toNat)

end Sys2Proof.Machine
end

