-- ==== Sys2Proof/Machine/Scheduler.lean ====
section
/-! DEFINITION. The frame scheduler and interrupt controller (44_frame_scheduler.md R430-R446) and the host operations of
70_reset_and_hazards.md (R501, R502). A frame is one step (R446); the CPUs' transactions inside each budget come from the
scripts of the environment (log 3). -/

namespace Sys2Proof.Machine

/-! ### CPU budgets -/

/-- A primary-CPU transaction inside a budget, answered by the bus rules (R11, R445). -/
def State.cpuAccess (s : State) (op : BusOp) : State := (s.busOp op).2.call (.cpuAccess op (s.busOp op).1)

/-- A sound-CPU transaction inside a budget. -/
def State.soundAccess (s : State) (op : SoundOp) : State := (s.soundOp op).2.call (.soundAccess op (s.soundOp op).1)

/-- `Cpu.execute(n)`: the CPU issues the transactions of its next script, whatever n is (R11, R434, R445; log 21). -/
def State.cpuExecute (s : State) (n : Nat) : State :=
  let s := s.call (.cpuExecute n)
  match s.env.cpuScript with
  | [] => s
  | ops :: rest => ops.foldl State.cpuAccess { s with env := { s.env with cpuScript := rest } }

/-- `SoundCpu.execute(n)`; what it returns is ignored (R445). It is called whatever soundReset and busReq hold (D68). -/
def State.soundExecute (s : State) (n : Nat) : State :=
  let s := s.call (.soundExecute n)
  match s.env.soundScript with
  | [] => s
  | ops :: rest => ops.foldl State.soundAccess { s with env := { s.env with soundScript := rest } }

/-! ### The parts of a frame -/

/-- R431: `FrameStart()`, and R430's sample of the height. -/
def State.frameStart (s : State) : State :=
  { s with
    sched :=
      { s.sched with
        vb := false, f := false, hb := false, hintCounter := s.vdp.r 10, curLine := 0, frameV30 := s.vdp.v30 } }

/-- R433: `LineCounterStep()`. -/
def State.lineCounterStep (s : State) : State :=
  if s.sched.hintCounter = 0 then
    let t : State := { s with sched := { s.sched with hintCounter := s.vdp.r 10 } }
    if s.vdp.hintEnable then t.assertInterrupt 4 else t
  else { s with sched := { s.sched with hintCounter := s.sched.hintCounter - 1 } }

/-- R432: a visible line up to the HBlank budget's start. -/
def State.visibleActive (s : State) (y : Nat) : State :=
  ((((s.setLine y).setPhase .active).cpuExecute s.cfg.cpuActiveCycles).soundExecute (soundBudget s.cfg)).lineCounterStep

/-- R432: `VisibleLine(y)`. -/
def State.visibleLine (s : State) (y : Nat) : State :=
  let t := (((s.visibleActive y).setHb true).setPhase .hblank).cpuExecute s.cfg.cpuHblankCycles
  ((t.setHb false).renderIfOn y).call .synthTick

/-- R438: the frame interrupt. -/
def State.frameInterrupt (s : State) : State := if s.vdp.vintEnable then s.assertInterrupt 6 else s

/-- R437: `VBlankEntryLine(y)`. -/
def State.vblankEntryLine (s : State) (y : Nat) : State :=
  let t := ((((s.setLine y).setPhase .vblankEntry).setVb true).cpuExecute s.cfg.cpuVblankEntryCycles).soundExecute
    (soundBudget s.cfg)
  let u := (t.setF true).frameInterrupt.setPhase .vblankLine
  (u.cpuExecute (cpuLineCycles s.cfg - s.cfg.cpuVblankEntryCycles)).call .synthTick

/-- R439: `VBlankLine(y)`. -/
def State.vblankLine (s : State) (y : Nat) : State :=
  ((((s.setLine y).setPhase .vblankLine).cpuExecute (cpuLineCycles s.cfg)).soundExecute (soundBudget s.cfg)).call
    .synthTick

/-- R430: `RunFrame()`. -/
def State.runFrame (s : State) : State :=
  let start := s.frameStart
  let height := s.vdp.height
  let visible := (List.range height).foldl State.visibleLine start
  let entry := visible.vblankEntryLine height
  let blank := (List.range' (height + 1) (totalLines s.cfg.region - (height + 1))).foldl State.vblankLine entry
  blank.setPhase .idle

/-! ### Reset and cartridge load -/

/-- R501: `Reset()`: every element of R99 at its reset value, rom and romSize unchanged, then the two calls. -/
def State.resetBlock (s : State) : State :=
  (({ s with
      bus := { BusState.powerOn with rom := s.bus.rom, romSize := s.bus.romSize }
      vdp := VdpState.reset
      sched := SchedState.reset
      fb := Framebuffer.reset } : State).call (.setBusRequest false)).call (.setReset true)

/-- The largest cartridge (R502). -/
def romMax : Nat := 0x400000

/-- R502's load after the size check. -/
def State.loadBlob (s : State) (blob : List Byte) : State :=
  { s.resetBlock with bus := { s.resetBlock.bus with rom := Memory.ofBytes 0 blob, romSize := blob.length } }

/-! ### The rows -/

/-- run_frame (R430). -/
def execRunFrame (s : State) : Host.Outcome State Fault Refusal := finish s.runFrame

/-- reset (R501). -/
def execReset (s : State) : Host.Outcome State Fault Refusal := finish s.resetBlock

/-- load_cartridge (R502): an oversize blob is reported to the caller and changes nothing (log 13). -/
def execLoadCartridge (blob : List Byte) (s : State) : Host.Outcome State Fault Refusal :=
  if romMax < blob.length then answer s .tooLarge else answer (s.loadBlob blob) .loaded

end Sys2Proof.Machine
end

