-- ==== Sys2Proof/Machine/Dispatch.lean ====
section
/-! DEFINITION. Dispatch: one arm per constructor of `Instr`, each one direct call of its meaning. -/

namespace Sys2Proof.Machine

def exec (i : Instr) (s : State) : Host.Outcome State Fault Refusal :=
  match i with
  | .read8 a => Sys2Proof.Machine.execRead8 a s
  | .read16 a => Sys2Proof.Machine.execRead16 a s
  | .read32 a => Sys2Proof.Machine.execRead32 a s
  | .write8 a v => Sys2Proof.Machine.execWrite8 a v s
  | .write16 a v => Sys2Proof.Machine.execWrite16 a v s
  | .write32 a v => Sys2Proof.Machine.execWrite32 a v s
  | .sread8 z => Sys2Proof.Machine.execSread8 z s
  | .swrite8 z b => Sys2Proof.Machine.execSwrite8 z b s
  | .dmaSourceRead16 src => Sys2Proof.Machine.execDmaSourceRead16 src s
  | .regionRom a acc => Sys2Proof.Machine.execRegionRom a acc s
  | .regionRommirror a acc => Sys2Proof.Machine.execRegionRommirror a acc s
  | .regionRommirror2 a acc => Sys2Proof.Machine.execRegionRommirror2 a acc s
  | .regionSoundram a acc => Sys2Proof.Machine.execRegionSoundram a acc s
  | .regionSynth a acc => Sys2Proof.Machine.execRegionSynth a acc s
  | .regionSoundbank a acc => Sys2Proof.Machine.execRegionSoundbank a acc s
  | .regionSoundvdp a acc => Sys2Proof.Machine.execRegionSoundvdp a acc s
  | .regionUnmapped a acc => Sys2Proof.Machine.execRegionUnmapped a acc s
  | .regionSoundromview a acc => Sys2Proof.Machine.execRegionSoundromview a acc s
  | .regionIo a acc => Sys2Proof.Machine.execRegionIo a acc s
  | .regionBusreq a acc => Sys2Proof.Machine.execRegionBusreq a acc s
  | .regionSoundreset a acc => Sys2Proof.Machine.execRegionSoundreset a acc s
  | .regionUnmapped2 a acc => Sys2Proof.Machine.execRegionUnmapped2 a acc s
  | .regionVdp a acc => Sys2Proof.Machine.execRegionVdp a acc s
  | .regionRam a acc => Sys2Proof.Machine.execRegionRam a acc s
  | .regionUnmapped3 a acc => Sys2Proof.Machine.execRegionUnmapped3 a acc s
  | .vdpDataPort off acc => Sys2Proof.Machine.execVdpDataPort off acc s
  | .vdpControlPort off acc => Sys2Proof.Machine.execVdpControlPort off acc s
  | .vdpHvPort off acc => Sys2Proof.Machine.execVdpHvPort off acc s
  | .vdpPsgPort off acc => Sys2Proof.Machine.execVdpPsgPort off acc s
  | .vdpUnusedPort off acc => Sys2Proof.Machine.execVdpUnusedPort off acc s
  | .ctrlRegwrite _ r v => Sys2Proof.Machine.execCtrlRegwrite r v s
  | .ctrlCmd1 cd10 a => Sys2Proof.Machine.execCtrlCmd1 cd10 a s
  | .ctrlCmd2 _ cd52 _ a => Sys2Proof.Machine.execCtrlCmd2 cd52 a s
  | .dataWriteVram v => Sys2Proof.Machine.execDataWriteVram v s
  | .dataWriteCram v => Sys2Proof.Machine.execDataWriteCram v s
  | .dataWriteVsram v => Sys2Proof.Machine.execDataWriteVsram v s
  | .dataWriteNotarget v => Sys2Proof.Machine.execDataWriteNotarget v s
  | .dataWriteReadcode v => Sys2Proof.Machine.execDataWriteReadcode v s
  | .dataReadVram => Sys2Proof.Machine.execDataReadVram s
  | .dataReadVsram => Sys2Proof.Machine.execDataReadVsram s
  | .dataReadCram => Sys2Proof.Machine.execDataReadCram s
  | .dataReadVram8 => Sys2Proof.Machine.execDataReadVram8 s
  | .dataReadInvalid => Sys2Proof.Machine.execDataReadInvalid s
  | .statusRead _ => Sys2Proof.Machine.execStatusRead s
  | .hvRead _ => Sys2Proof.Machine.execHvRead s
  | .hvWrite _ _ => Sys2Proof.Machine.execHvWrite s
  | .psgWrite _ v => Sys2Proof.Machine.execPsgWrite v s
  | .psgRead _ => Sys2Proof.Machine.execPsgRead s
  | .vdpUnused _ acc => Sys2Proof.Machine.execVdpUnused acc s
  | .vdpByteAccess off acc => Sys2Proof.Machine.execVdpByteAccess off acc s
  | .vdpLongAccess off acc => Sys2Proof.Machine.execVdpLongAccess off acc s
  | .dma68k => Sys2Proof.Machine.execDma68k s
  | .dmaFillArm => Sys2Proof.Machine.execDmaFillArm s
  | .dmaFillFire v => Sys2Proof.Machine.execDmaFillFire v s
  | .dmaCopy => Sys2Proof.Machine.execDmaCopy s
  | .dmaDisabled => Sys2Proof.Machine.execDmaDisabled s
  | .renderLine y => Sys2Proof.Machine.execRenderLine y s
  | .runFrame => Sys2Proof.Machine.execRunFrame s
  | .reset => Sys2Proof.Machine.execReset s
  | .loadCartridge blob => Sys2Proof.Machine.execLoadCartridge blob s

end Sys2Proof.Machine
end

