-- ==== Sys2Proof/WellFormed.lean ====
section
/-! DEFINITION. Which terms of `Instr` are instructions: the operand of a row satisfies that row's match column. What a
type already says (an operand's width) is not checked again. -/

namespace Sys2Proof

/-- The check, one arm per constructor: a region row's address matches that row first (R148); a port row's offset is one
of the port's (R151); a first command word has bits 15:14 other than 10 (R142). -/
def Instr.wf : Instr → Bool
  | .read8 _ | .read16 _ | .read32 _ | .write8 _ _ | .write16 _ _ | .write32 _ _ => true
  | .sread8 _ | .swrite8 _ _ | .dmaSourceRead16 _ => true
  | .regionRom a _ => addrRow a == .rom
  | .regionRommirror a _ => addrRow a == .rommirror
  | .regionRommirror2 a _ => addrRow a == .rommirror2
  | .regionSoundram a _ => addrRow a == .soundram
  | .regionSynth a _ => addrRow a == .synth
  | .regionSoundbank a _ => addrRow a == .soundbank
  | .regionSoundvdp a _ => addrRow a == .soundvdp
  | .regionUnmapped a _ => addrRow a == .unmapped
  | .regionSoundromview a _ => addrRow a == .soundromview
  | .regionIo a _ => addrRow a == .io
  | .regionBusreq a _ => addrRow a == .busreq
  | .regionSoundreset a _ => addrRow a == .soundreset
  | .regionUnmapped2 a _ => addrRow a == .unmapped2
  | .regionVdp a _ => addrRow a == .vdp
  | .regionRam a _ => addrRow a == .ram
  | .regionUnmapped3 a _ => addrRow a == .unmapped3
  | .vdpDataPort off _ => portRow off == .data
  | .vdpControlPort off _ => portRow off == .control
  | .vdpHvPort off _ => portRow off == .hv
  | .vdpPsgPort off _ => portRow off == .psg
  | .vdpUnusedPort off _ => portRow off == .unused
  | .ctrlRegwrite _ _ _ => true
  | .ctrlCmd1 cd10 _ => cd10 != 0b10
  | .ctrlCmd2 _ _ _ _ => true
  | .dataWriteVram _ | .dataWriteCram _ | .dataWriteVsram _ | .dataWriteNotarget _ | .dataWriteReadcode _ => true
  | .dataReadVram | .dataReadVsram | .dataReadCram | .dataReadVram8 | .dataReadInvalid => true
  | .statusRead off => portRow off == .control
  | .hvRead off => portRow off == .hv
  | .hvWrite off _ => portRow off == .hv
  | .psgWrite off _ => portRow off == .psg
  | .psgRead off => portRow off == .psg
  | .vdpUnused off _ => portRow off == .unused
  | .vdpByteAccess _ _ | .vdpLongAccess _ _ => true
  | .dma68k | .dmaFillArm | .dmaFillFire _ | .dmaCopy | .dmaDisabled => true
  | .renderLine _ | .runFrame | .reset | .loadCartridge _ => true

end Sys2Proof
end

