-- ==== Sys2Proof/Machine/Step.lean ====
section
/-! DEFINITION. One step: the next request of the environment is decoded in the present state and run. The block has no
program counter (R31); it acts when it is asked (R484), and stays as it is when nothing is asked (log 15). -/

namespace Sys2Proof.Machine

/-- One request served: decoded, and its meaning run. -/
def serve (q : Request) (s : State) : Host.Outcome State Fault Refusal :=
  match decode s.decodeCtx q with
  | .ok i => exec i s
  | .error e => .refused (.undecodable e)

/-- The state with the first waiting request taken off. -/
def State.dequeued (s : State) : State := { s with env := { s.env with inbox := s.env.inbox.tail } }

/-- The state with a request put first in the queue. -/
def State.withRequest (s : State) (q : Request) : State := { s with env := { s.env with inbox := q :: s.env.inbox } }

/-- The step. -/
def step (s : State) : Host.Outcome State Fault Refusal :=
  match s.env.inbox with
  | [] => .next s
  | q :: _ => serve q s.dequeued

/-- A table word placed where `step` fetches: at the head of the request queue. A 16-bit control word is a row of the latch
in Idle, and an 8-bit access code is the code register's value, so these two are set with it (log 17). -/
def State.withFetchWord (s : State) (nbits w : Nat) : State :=
  let c := tableCtx nbits w s.decodeCtx
  { s with vdp := { s.vdp with pending := c.pending, code := c.code } }.withRequest (tableRequest nbits w)

end Sys2Proof.Machine
end

