-- ==== Sys2Proof/Safety.lean ====
section
/-! DEFINITION. What holds of a state between two steps (the invariants the spec states or implies of its elements), what a
transaction may not change, and what counts as a call of each kind. Claims about runs are made in these terms. -/

namespace Sys2Proof.Machine

/-! ### The invariant between steps -/

/-- The memories are in canonical form and within their sizes (R33-R36, R64, R71). -/
abbrev State.MemoriesWf (s : State) : Prop :=
  s.bus.romSize ≤ romMax ∧ Memory.wf s.bus.romSize s.bus.rom = true ∧ Memory.wf 0x10000 s.bus.wram = true ∧
  Memory.wf 0x8000 s.bus.sram = true ∧ Memory.wf 0x10000 s.vdp.vram = true ∧ Memory.wf 0x400 s.vdp.satCache = true

/-- Registers 24-31 always hold 0 (R39, R61). -/
abbrev VdpState.HighRegsZero (v : VdpState) : Prop := ∀ i : Fin 32, 24 ≤ i.val → v.r i = 0

/-- The scheduler between frames: Idle, outside HBlank, the line below TOTAL_LINES (R74, R430, R442). -/
abbrev State.BetweenFrames (s : State) : Prop :=
  s.sched.phase = .idle ∧ s.sched.hb = false ∧ s.sched.curLine < totalLines s.cfg.region

/-- The invariant of every state between two steps. -/
abbrev State.Inv (s : State) : Prop := s.MemoriesWf ∧ s.vdp.HighRegsZero ∧ s.BetweenFrames

/-- The sprite cache agrees with VRAM inside the current table window (R71, R119). -/
abbrev VdpState.CacheCoherent (v : VdpState) : Prop :=
  ∀ k, k < v.satSize → v.satCache.read k = v.vram.read (v.satBase.toNat + k)

/-! ### Calls -/

/-- The calls a bus transaction can make (R205, R208-R210, R303); the scheduler's own calls are none of these. -/
def Event.ofBus : Event → Bool
  | .setBusRequest _ | .setReset _ | .synthWrite _ _ | .synthRead _ _ | .ioRead _ _ | .ioWrite _ _ | .psgWrite _ => true
  | .cpuExecute _ | .soundExecute _ | .assertInterrupt _ | .synthTick | .cpuAccess _ _ | .soundAccess _ _ => false

/-- The calls made between `s` and `t`, newest first. -/
abbrev State.Called (s t : State) (es : List Event) : Prop := t.env.events = es ++ s.env.events

/-- The calls the scheduler makes on every line: the budgets and the tick (R432, R437, R439). -/
def Event.ofLine : Event → Bool
  | .cpuExecute _ | .soundExecute _ | .synthTick => true
  | .assertInterrupt _ | .setBusRequest _ | .setReset _ | .synthWrite _ _ | .synthRead _ _ | .ioRead _ _ | .ioWrite _ _
  | .psgWrite _ | .cpuAccess _ _ | .soundAccess _ _ => false

/-- The word a word read of the primary CPU was answered with in a budget. -/
def Event.wordSeen (e : Event) : Option Word :=
  match e with
  | .cpuAccess (.read16 _) (.word w) => some w
  | _ => none

/-- VB, HB and F (R76) in that word. -/
def Event.blanksSeen (e : Event) : Option (Bool × Bool × Bool) :=
  e.wordSeen.map fun w => (w.getLsbD 3, w.getLsbD 2, w.getLsbD 7)

/-- The primary-CPU cycles a call hands out (R434). -/
def Event.cpuCycles (e : Event) : Nat :=
  match e with
  | .cpuExecute n => n
  | _ => 0

/-- The CPU cores issue no transaction in their budgets (95_test_vectors.md section 0). -/
abbrev State.CpusIdle (s : State) : Prop := s.env.cpuScript = [] ∧ s.env.soundScript = []

/-! ### What a transaction leaves alone -/

/-- What no bus transaction changes (R224, R77, R446): the parameters, the ROM, the scheduler, the framebuffer, and the
environment's queue and scripts; the calls it makes are bus calls, and each draw is a fresh one. -/
structure State.BusFrame (s t : State) : Prop where
  cfg : t.cfg = s.cfg
  rom : t.bus.rom = s.bus.rom
  romSize : t.bus.romSize = s.bus.romSize
  sched : t.sched = s.sched
  fb : t.fb = s.fb
  inbox : t.env.inbox = s.env.inbox
  cpuScript : t.env.cpuScript = s.env.cpuScript
  soundScript : t.env.soundScript = s.env.soundScript
  draws : s.env.draws ≤ t.env.draws
  called : ∃ es, s.Called t es ∧ ∀ e ∈ es, e.ofBus = true

/-- What no VDP port access changes: what no bus transaction changes, and the bus's own memories and registers. -/
structure State.PortFrame (s t : State) : Prop extends State.BusFrame s t where
  bus : t.bus = s.bus

/-! ### Several instructions in a row -/

/-- The instructions run one after the other, up to the first that gives no next state. -/
def execAll : List Instr → State → Host.Outcome State Fault Refusal
  | [], s => .next s
  | i :: is, s =>
    match exec i s with
    | .next t => execAll is t
    | .fault f => .fault f
    | .refused r => .refused r

end Sys2Proof.Machine
end

