-- ==== Sys2Proof/Certificates/Slice0/Obligations.lean ====
section
/-! DEFINITION. The statements for the provers. `s.replied r` is `s` with the reply `r` recorded and nothing else changed.
A frame is said as `t = { s with f := t.f, … }`: only the named fields of `t` may differ from those of `s`, and the clauses
that follow say how. A free value is written as the model makes it, `Config.freeBits w n` at the counter `n` of the draws;
nothing can be proved of what it is. -/

section Statements

open Sys2Proof Sys2Proof.Machine

/-! ### Encoding and stepping -/

/-- O1. Decoding the encoding of a well-formed instruction, in any context that selects its row, gives it back, with every
operand at every value (R140-R146, R148, R151). The request format is the model's (log 2). -/
def Obligations.DecodeOfEncode : Prop :=
  ∀ (c : DecodeCtx) (i : Instr), i.wf = true → i.selectedBy c = true → decode c (encode i) = .ok i

/-- O2. Every request the decoder accepts is the encoding of the instruction it gives, which is well-formed and selected by
the context: each request has one meaning (R140: "Every input has exactly one decode"). The request format is the model's
(log 2). -/
def Obligations.EncodeOfDecode : Prop :=
  ∀ (c : DecodeCtx) (q : Request) (i : Instr), decode c q = .ok i →
    encode i = q ∧ i.wf = true ∧ i.selectedBy c = true

/-- O3. The first matching row of R148's table gives the region of R200, for every natural number, of which only bits 23:0
count. -/
def Obligations.AddressTableGivesRegions : Prop :=
  ∀ n : Nat, classify n = (addrRow (BitVec.ofNat 24 n)).region

/-- O4. A few words written out from the spec's encodings decode to the instructions they stand for. (That a bare address is
read, and that a bare code stands for an access of it, are the model's placing of the table's words, log 17.) -/
def Obligations.TableWordsDecode : Prop :=
  decodeTableWord 24 0x3FFFFF = some (.regionRom 0x3FFFFF .read) ∧
  decodeTableWord 24 0x400000 = some (.regionRommirror 0x400000 .read) ∧
  decodeTableWord 24 0xA11100 = some (.regionBusreq 0xA11100 .read) ∧
  decodeTableWord 24 0xA20000 = some (.regionUnmapped3 0xA20000 .read) ∧
  decodeTableWord 16 0x8F02 = some (.ctrlRegwrite 0 15 0x02) ∧
  decodeTableWord 16 0xA705 = some (.ctrlRegwrite 1 7 0x05) ∧
  decodeTableWord 16 0xC00A = some (.ctrlCmd1 3 0x000A) ∧
  decode ⟨true, 0, false, false, 0⟩ [0x40, 0x80, 0x00] = .ok (.ctrlCmd2 0 0b1000 0 0) ∧
  decodeTableWord 8 0x03 = some (.dataWriteCram 0) ∧
  decodeTableWord 8 0x0C = some .dataReadVram8 ∧
  decodeTableWord 8 0x11 = some (.vdpPsgPort 0x11 .read)

/-- O5. A step takes the first waiting request off the queue, decodes it in the present state and runs it. (The
queue is the model's, log 1.) -/
def Obligations.StepRunsDecoded : Prop :=
  ∀ (s : State) (q : Request) (rest : List Request) (i : Instr), s.env.inbox = q :: rest →
    decode s.decodeCtx q = .ok i → step s = exec i { s with env := { s.env with inbox := rest } }

/-- O6. A well-formed instruction whose row the state selects, placed at the head of the queue, is what the next step
runs. (The queue is the model's, log 1.) -/
def Obligations.StepRunsPlacedInstruction : Prop :=
  ∀ (s : State) (i : Instr), i.wf = true → i.selectedBy s.decodeCtx = true →
    step (s.withRequest (encode i)) = exec i s

/-- O7. A step always gives a next state, but for a request that is no encoding of any row, which is refused by name (the
refusal is the model's, log 2): no input of the block faults (R470). -/
def Obligations.StepStopsOnlyOnBadRequest : Prop :=
  ∀ s : State, (∃ t, step s = .next t) ∨
    ∃ q rest e, s.env.inbox = q :: rest ∧ decode s.decodeCtx q = .error e ∧ step s = .refused (.undecodable e)

/-- O8. Every instruction completes in every state, with every operand (R14, R470); none changes the parameters (R444) or the
queue of requests, and draws are only ever consumed. -/
def Obligations.EveryInstructionCompletes : Prop :=
  ∀ (i : Instr) (s : State), ∃ t, exec i s = .next t ∧ t.cfg = s.cfg ∧ t.env.inbox = s.env.inbox ∧
    s.env.draws ≤ t.env.draws

/-- O9. The invariant holds at reset. -/
def Obligations.ResetInv : Prop := State.reset.Inv

/-- O10. Every step keeps the invariant: memories canonical and within their sizes (R33-R36, R64, R71), registers 24-31 zero
(R39, R61), the scheduler Idle between steps with its line below TOTAL_LINES (R74, R446). -/
def Obligations.StepKeepsInv : Prop :=
  ∀ s t : State, s.Inv → step s = .next t → t.Inv

/-- O11. A read of a byte memory after a write gives the written byte there and the old byte elsewhere; a write within the
size keeps the canonical form; canonical memories that read alike are equal. (The sparse form is the model's, log 14.) -/
def Obligations.MemoryReadAfterWrite : Prop :=
  (∀ (m : Memory) (k j : Nat) (b : Byte), (m.write k b).read j = if j = k then b else m.read j) ∧
  (∀ (m : Memory) (size k : Nat) (b : Byte), Memory.wf size m = true → k < size → Memory.wf size (m.write k b) = true) ∧
  (∀ (m n : Memory) (size : Nat), Memory.wf size m = true → Memory.wf size n = true → (∀ k, m.read k = n.read k) → m = n)

/-! ### The bus -/

/-- O12. No transaction and no sub-step of one changes what R224, R77 and R446 keep out of its reach: the ROM, the
scheduler's flags and position, the framebuffer. The calls it makes are the bus's, and it returns. -/
def Obligations.TransactionsKeepTheRest : Prop :=
  ∀ (i : Instr) (s : State), (∀ y, i ≠ .renderLine y) → i ≠ .runFrame → i ≠ .reset → (∀ b, i ≠ .loadCartridge b) →
    ∃ t, exec i s = .next t ∧ s.BusFrame t

/-- O13. The ROM image and its size change only through LoadCartridge, also over whole frames. -/
def Obligations.RomChangesOnlyByLoad : Prop :=
  ∀ (i : Instr) (s t : State), (∀ b, i ≠ .loadCartridge b) → exec i s = .next t →
    t.bus.rom = s.bus.rom ∧ t.bus.romSize = s.bus.romSize

/-- O14. R201, R202: a ROM byte is that of the image at `a & 0x3FFFFF`, 0xFF past it; writes have no effect. -/
def Obligations.RomRegions : Prop :=
  ∀ (s : State) (a : Addr) (b : Byte),
    (∀ i ∈ [Instr.regionRom a .read, .regionRommirror a .read, .regionRommirror2 a .read],
      exec i s = .next (s.replied (.byte
        (if (a &&& 0x3FFFFF).toNat < s.bus.romSize then s.bus.rom.read (a &&& 0x3FFFFF).toNat else 0xFF)))) ∧
    (∀ i ∈ [Instr.regionRom a (.write b), .regionRommirror a (.write b), .regionRommirror2 a (.write b)],
      exec i s = .next (s.replied .done))

/-- O15. R212: a work-RAM access is of the byte at `a & 0xFFFF`; the rest of the state stays. -/
def Obligations.WorkRamRegion : Prop :=
  ∀ (s : State) (a : Addr) (b : Byte),
    exec (.regionRam a .read) s = .next (s.replied (.byte (s.bus.wram.read (a &&& 0xFFFF).toNat))) ∧
    ∃ t, exec (.regionRam a (.write b)) s = .next t ∧
      t = { s with bus := { s.bus with wram := t.bus.wram }, env := { s.env with reply := .done } } ∧
      ∀ k, t.bus.wram.read k = if k = (a &&& 0xFFFF).toNat then b else s.bus.wram.read k

/-- O16. R204: a sound-RAM access is of the byte at `(a & 0xFFFF) & SOUND_RAM_MASK`, whatever busReq holds; under the default
mask the second half of the region is a copy of the first. -/
def Obligations.SoundRamRegion : Prop :=
  ∀ (s : State) (a : Addr) (b : Byte),
    exec (.regionSoundram a .read) s =
      .next (s.replied (.byte (s.bus.sram.read (a.toNat % 0x10000 &&& s.cfg.soundRamMask.toNat)))) ∧
    (∃ t, exec (.regionSoundram a (.write b)) s = .next t ∧
      t = { s with bus := { s.bus with sram := t.bus.sram }, env := { s.env with reply := .done } } ∧
      ∀ k, t.bus.sram.read k =
        if k = a.toNat % 0x10000 &&& s.cfg.soundRamMask.toNat then b else s.bus.sram.read k) ∧
    (s.cfg.soundRamMask = 0x1FFF → exec (.regionSoundram (a + 0x2000) .read) s = exec (.regionSoundram a .read) s)

/-- O17. R205, R208: the synthesizer and I/O regions call their collaborator once, with port `a & 3` or `(a | 1) & 0x1F`; a
read returns what it answers, a free value; the block keeps no state of either. (That a call is an event of the state is the
model's, log 5.) -/
def Obligations.SynthAndIoRegions : Prop :=
  ∀ (s : State) (a : Addr) (b : Byte),
    let v : Byte := Config.freeBits 8 s.env.draws
    let port : BitVec 2 := a.extractLsb' 0 2
    let off : BitVec 5 := (a ||| 1).extractLsb' 0 5
    exec (.regionSynth a .read) s = .next { s with env := { s.env with
      draws := s.env.draws + 1, events := .synthRead port v :: s.env.events, reply := .byte v } } ∧
    exec (.regionSynth a (.write b)) s = .next { s with env := { s.env with
      events := .synthWrite port b :: s.env.events, reply := .done } } ∧
    exec (.regionIo a .read) s = .next { s with env := { s.env with
      draws := s.env.draws + 1, events := .ioRead off v :: s.env.events, reply := .byte v } } ∧
    exec (.regionIo a (.write b)) s = .next { s with env := { s.env with
      events := .ioWrite off b :: s.env.events, reply := .done } }

/-- O18. R206: one write of the bank register shifts one bit in from the top, nine writes load it with the first write's bit
in bit 0, a read gives 0xFF. -/
def Obligations.BankRegister : Prop :=
  ∀ (s : State) (a : Addr),
    exec (.regionSoundbank a .read) s = .next (s.replied (.byte 0xFF)) ∧
    (∀ b : Byte, exec (.regionSoundbank a (.write b)) s = .next { s with
      bus := { s.bus with bank := (s.bus.bank >>> 1) ||| ((b.setWidth 9 &&& 1) <<< 8) }
      env := { s.env with reply := .done } }) ∧
    (∀ (bs : List Byte) (h : bs.length = 9),
      ∃ t, execAll (bs.map fun b => .regionSoundbank a (.write b)) s = .next t ∧
        t = { s with bus := { s.bus with bank := t.bus.bank }, env := { s.env with reply := .done } } ∧
        ∀ k : Fin 9, t.bus.bank.getLsbD k = (bs[k]).getLsbD 0)

/-- O19. R209: the bus-request register. -/
def Obligations.BusRequestRegister : Prop :=
  ∀ (s : State) (a : Addr) (b : Byte),
    (a.getLsbD 0 = false →
      exec (.regionBusreq a (.write b)) s = .next { s with
        bus := { s.bus with busReq := b.getLsbD 0 }
        env := { s.env with events := .setBusRequest (b.getLsbD 0) :: s.env.events, reply := .done } } ∧
      exec (.regionBusreq a .read) s = .next { s with env := { s.env with
        draws := s.env.draws + 1
        reply := .byte (Config.freeBits 7 s.env.draws ++ (if s.bus.busReq then 0#1 else 1#1)) } }) ∧
    (a.getLsbD 0 = true →
      exec (.regionBusreq a (.write b)) s = .next (s.replied .done) ∧
      exec (.regionBusreq a .read) s = .next { s with env := { s.env with
        draws := s.env.draws + 1, reply := .byte (Config.freeBits 8 s.env.draws) } })

/-- O20. R210: the sound-CPU reset register. -/
def Obligations.SoundResetRegister : Prop :=
  ∀ (s : State) (a : Addr) (b : Byte),
    (a.getLsbD 0 = false →
      exec (.regionSoundreset a (.write b)) s = .next { s with
        bus := { s.bus with soundReset := b.getLsbD 0 }
        env := { s.env with events := .setReset (!b.getLsbD 0) :: s.env.events, reply := .done } }) ∧
    (a.getLsbD 0 = true → exec (.regionSoundreset a (.write b)) s = .next (s.replied .done)) ∧
    exec (.regionSoundreset a .read) s = .next { s with env := { s.env with
      draws := s.env.draws + 1, reply := .byte (Config.freeBits 8 s.env.draws) } }

/-- O21. R213, R207: an unmapped byte reads 0xFF and a write of it has no effect; so do the primary CPU's accesses to the
sound window's VDP and program-ROM views. -/
def Obligations.UnmappedRegions : Prop :=
  ∀ (s : State) (a : Addr) (b : Byte),
    (∀ i ∈ [Instr.regionUnmapped a .read, .regionUnmapped2 a .read, .regionUnmapped3 a .read, .regionSoundvdp a .read,
        .regionSoundromview a .read], exec i s = .next (s.replied (.byte 0xFF))) ∧
    (∀ i ∈ [Instr.regionUnmapped a (.write b), .regionUnmapped2 a (.write b), .regionUnmapped3 a (.write b),
        .regionSoundvdp a (.write b), .regionSoundromview a (.write b)], exec i s = .next (s.replied .done))

/-- O22. R214, R217: a byte transaction is the byte access of its address's region, first row of R148 that matches bits
23:0. -/
def Obligations.ByteTransactions : Prop :=
  ∀ (s : State) (a : Long) (b : Byte),
    exec (.read8 a) s = exec (decodeAddr (a.setWidth 24) .read) s ∧
    exec (.write8 a b) s = exec (decodeAddr (a.setWidth 24) (.write b)) s

/-- O23. R215: a word read, by region, at the address with bit 0 cleared. -/
def Obligations.WordReads : Prop :=
  ∀ (s : State) (a : Long),
    let e : Addr := a.setWidth 24 &&& 0xFFFFFE
    match (addrRow e).region with
    | .rom | .romMirror => exec (.read16 a) s = .next (s.replied (.word (s.bus.romByte e ++ s.bus.romByte (e + 1))))
    | .ram => exec (.read16 a) s = .next (s.replied (.word
        (s.bus.wram.read (e &&& 0xFFFF).toNat ++ s.bus.wram.read ((e &&& 0xFFFF).toNat + 1))))
    | .soundRam | .synth | .soundBank | .io | .busReq | .soundReset =>
      ∃ t b, exec (decodeAddr e .read) s = .next t ∧ t.env.reply = .byte b ∧
        exec (.read16 a) s = .next (t.replied (.word (b ++ b)))
    | .vdp => exec (.read16 a) s = exec (decodePort (e.extractLsb' 0 5) .read) s
    | .soundVdp | .soundRomView | .unmapped => exec (.read16 a) s = .next (s.replied (.word 0xFFFF))

/-- O24. R218: a word write, by region, at the address with bit 0 cleared. -/
def Obligations.WordWrites : Prop :=
  ∀ (s : State) (a : Long) (v : Word),
    let e : Addr := a.setWidth 24 &&& 0xFFFFFE
    match (addrRow e).region with
    | .ram => ∃ t, exec (.write16 a v) s = .next t ∧
        t = { s with bus := { s.bus with wram := t.bus.wram }, env := { s.env with reply := .done } } ∧
        ∀ k, t.bus.wram.read k =
          if k = (e &&& 0xFFFF).toNat then v.extractLsb' 8 8
          else if k = (e &&& 0xFFFF).toNat + 1 then v.extractLsb' 0 8 else s.bus.wram.read k
    | .rom | .romMirror | .soundVdp | .soundRomView | .unmapped => exec (.write16 a v) s = .next (s.replied .done)
    | .soundRam | .synth | .soundBank | .busReq | .soundReset =>
      exec (.write16 a v) s = exec (decodeAddr e (.write (v.extractLsb' 8 8))) s
    | .io => exec (.write16 a v) s = exec (decodeAddr e (.write (v.extractLsb' 0 8))) s
    | .vdp => exec (.write16 a v) s = exec (decodePort (e.extractLsb' 0 5) (.write v)) s

/-- O25. R216, R219, R108: a long access is two word accesses, high half first, each decoded on its own. -/
def Obligations.LongTransactions : Prop :=
  ∀ (s : State) (a v : Long),
    exec (.write32 a v) s = execAll [.write16 a (v.extractLsb' 16 16), .write16 (a + 2) (v.extractLsb' 0 16)] s ∧
    ∃ u t hi lo, exec (.read16 a) s = .next u ∧ u.env.reply = .word hi ∧
      exec (.read16 (a + 2)) u = .next t ∧ t.env.reply = .word lo ∧
      exec (.read32 a) s = .next (t.replied (.long (hi ++ lo)))

/-- O26. R220, R221: a sound-CPU access below 0x7F00 is the primary access of `0xA00000 | z`, one at 0x7F00-0x7FFF is a byte
access of the VDP port `z & 0x1F`, and one from 0x8000 on is the primary access of the banked address, unless that lies in
the sound window, which is unmapped. -/
def Obligations.SoundTransactions : Prop :=
  ∀ (s : State) (z : Word) (b : Byte),
    let t : Addr := s.bus.bank ++ z.extractLsb' 0 15
    (z.toNat < 0x7F00 →
      exec (.sread8 z) s = exec (decodeAddr (0xA0#8 ++ z) .read) s ∧
      exec (.swrite8 z b) s = exec (decodeAddr (0xA0#8 ++ z) (.write b)) s) ∧
    (0x7F00 ≤ z.toNat → z.toNat < 0x8000 →
      exec (.sread8 z) s = exec (.vdpByteAccess (z.extractLsb' 0 5) .read) s ∧
      exec (.swrite8 z b) s = exec (.vdpByteAccess (z.extractLsb' 0 5) (.write b)) s) ∧
    (0x8000 ≤ z.toNat → 0xA00000 ≤ t.toNat ∧ t.toNat ≤ 0xA0FFFF →
      exec (.sread8 z) s = .next (s.replied (.byte 0xFF)) ∧ exec (.swrite8 z b) s = .next (s.replied .done)) ∧
    (0x8000 ≤ z.toNat → ¬(0xA00000 ≤ t.toNat ∧ t.toNat ≤ 0xA0FFFF) →
      exec (.sread8 z) s = exec (decodeAddr t .read) s ∧ exec (.swrite8 z b) s = exec (decodeAddr t (.write b)) s)

/-- O27. R222: a DMA source read of ROM or work RAM gives the big-endian word there without side effect; of any other region,
a draw, with no collaborator called and no port touched. -/
def Obligations.DmaSourceRead : Prop :=
  ∀ (s : State) (src : Addr),
    let e : Addr := src &&& 0xFFFFFE
    ((addrRow e).region = .rom ∨ (addrRow e).region = .romMirror →
      exec (.dmaSourceRead16 src) s = .next (s.replied (.word (s.bus.romByte e ++ s.bus.romByte (e + 1))))) ∧
    ((addrRow e).region = .ram →
      exec (.dmaSourceRead16 src) s = .next (s.replied (.word
        (s.bus.wram.read (e &&& 0xFFFF).toNat ++ s.bus.wram.read ((e &&& 0xFFFF).toNat + 1))))) ∧
    ((addrRow e).region ≠ .rom → (addrRow e).region ≠ .romMirror → (addrRow e).region ≠ .ram →
      exec (.dmaSourceRead16 src) s = .next { s with env := { s.env with
        draws := s.env.draws + 1, reply := .word (Config.freeBits 16 s.env.draws) } })

/-! ### The VDP's ports -/

/-- O28. R260, R151, R261, R144, R145: the port an offset selects and the rule each access of it runs: the data port by the
access code, the control port by the latch and bits 15:14. R145, R280, R290: which row each access code selects, for an access
of the port and for a request of the row. -/
def Obligations.PortDispatch : Prop :=
  ∀ (s : State) (off : BitVec 5) (w : Word),
    (off.toNat < 0x04 →
      exec (.vdpDataPort off .read) s = exec (decodeDataRead s.vdp.code) s ∧
      exec (.vdpDataPort off (.write w)) s = exec (decodeDataWrite s.vdp.code w) s) ∧
    (0x04 ≤ off.toNat → off.toNat < 0x08 →
      exec (.vdpControlPort off .read) s = exec (.statusRead off) s ∧
      (s.vdp.pending = true → exec (.vdpControlPort off (.write w)) s =
        exec (.ctrlCmd2 (w.extractLsb' 8 8) (w.extractLsb' 4 4) (w.extractLsb' 2 2) (w.extractLsb' 0 2)) s) ∧
      (s.vdp.pending = false → w.extractLsb' 14 2 = 0b10 → exec (.vdpControlPort off (.write w)) s =
        exec (.ctrlRegwrite (w.extractLsb' 13 1) (w.extractLsb' 8 5) (w.extractLsb' 0 8)) s) ∧
      (s.vdp.pending = false → w.extractLsb' 14 2 ≠ 0b10 → exec (.vdpControlPort off (.write w)) s =
        exec (.ctrlCmd1 (w.extractLsb' 14 2) (w.extractLsb' 0 14)) s)) ∧
    (0x08 ≤ off.toNat → off.toNat < 0x10 →
      exec (.vdpHvPort off .read) s = exec (.hvRead off) s ∧
      exec (.vdpHvPort off (.write w)) s = exec (.hvWrite off w) s) ∧
    (0x10 ≤ off.toNat → off.toNat < 0x18 →
      exec (.vdpPsgPort off .read) s = exec (.psgRead off) s ∧
      exec (.vdpPsgPort off (.write w)) s = exec (.psgWrite off w) s) ∧
    (0x18 ≤ off.toNat → ∀ acc, exec (.vdpUnusedPort off acc) s = exec (.vdpUnused off acc) s) ∧
    (∀ c : DecodeCtx,
      let low : BitVec 6 := c.code &&& 0x0F
      let readRow : Instr :=
        if low = 0x00 then .dataReadVram else if low = 0x04 then .dataReadVsram else if low = 0x08 then .dataReadCram
        else if low = 0x0C then .dataReadVram8 else .dataReadInvalid
      let writeRow : Instr :=
        if low = 0x01 then .dataWriteVram w else if low = 0x03 then .dataWriteCram w
        else if low = 0x05 then .dataWriteVsram w
        else if c.code.getLsbD 0 then .dataWriteNotarget w else .dataWriteReadcode w
      decodeDataRead c.code = readRow ∧ decodeDataWrite c.code w = writeRow ∧
      (∀ i ∈ [Instr.dataReadVram, .dataReadVsram, .dataReadCram, .dataReadVram8, .dataReadInvalid],
        i.selectedBy c = true ↔ i = readRow) ∧
      (∀ i ∈ [Instr.dataWriteVram w, .dataWriteCram w, .dataWriteVsram w, .dataWriteNotarget w, .dataWriteReadcode w],
        i.selectedBy c = true ↔ i = writeRow))

/-- O29. R262-R265: a register-write word writes its register if R263 admits it, clears the low bits of code and address in
every case, and captures the H/V counter when bit 1 of register 0 goes from 0 to 1. -/
def Obligations.RegisterWrite : Prop :=
  ∀ (s : State) (x : BitVec 1) (r : BitVec 5) (v : Byte),
    let writable : Bool := decide (r.toNat < 24) && (decide (r.toNat < 11) || (s.vdp.r 1).getLsbD 2)
    let captures : Bool := r == 0 && !(s.vdp.r 0).getLsbD 1 && v.getLsbD 1
    ∃ t, exec (.ctrlRegwrite x r v) s = .next t ∧
      t = { s with
        vdp := { s.vdp with
          reg := t.vdp.reg
          code := s.vdp.code &&& 0x3C
          addr := s.vdp.addr &&& 0xC000
          hvLatchValue := if captures then s.vLive ++ Config.freeBits 8 s.env.draws else s.vdp.hvLatchValue }
        env := { s.env with draws := if captures then s.env.draws + 1 else s.env.draws, reply := .done } } ∧
      ∀ i : Fin 32, t.vdp.r i = if writable = true ∧ i.val = r.toNat then v else s.vdp.r i

/-- O30. R267: the first word of a command takes effect at once, and the latch becomes Pending. -/
def Obligations.FirstCommandWord : Prop :=
  ∀ (s : State) (cd10 : BitVec 2) (a : BitVec 14),
    exec (.ctrlCmd1 cd10 a) s = .next { s with
      vdp := { s.vdp with
        code := (s.vdp.code &&& 0x3C) ||| cd10.setWidth 6
        addr := (s.vdp.addr &&& 0xC000) ||| a.setWidth 16
        pending := true }
      env := { s.env with reply := .done } }

/-- O31. R268, R320, R329: the second word of a command sets the high parts and returns the latch to Idle; with code bit 5
and M1 set it then runs the DMA that R23 bits 7:6 select, and with either clear nothing more. -/
def Obligations.SecondCommandWord : Prop :=
  ∀ (s : State) (x : Byte) (cd52 : BitVec 4) (y a : BitVec 2),
    let u : State := { s with vdp := { s.vdp with
      code := (s.vdp.code &&& 0x03#6) ||| (cd52.setWidth 6 <<< 2)
      addr := (s.vdp.addr &&& 0x3FFF#16) ||| (a.setWidth 16 <<< 14)
      pending := false } }
    (cd52.getLsbD 3 = false ∨ (s.vdp.r 1).getLsbD 4 = false →
      exec (.ctrlCmd2 x cd52 y a) s = .next (u.replied .done)) ∧
    (cd52.getLsbD 3 = true → (s.vdp.r 1).getLsbD 4 = true →
      ((s.vdp.r 23).getLsbD 7 = false → exec (.ctrlCmd2 x cd52 y a) s = exec .dma68k u) ∧
      ((s.vdp.r 23).extractLsb' 6 2 = 0b10 → exec (.ctrlCmd2 x cd52 y a) s = exec .dmaFillArm u) ∧
      ((s.vdp.r 23).extractLsb' 6 2 = 0b11 → exec (.ctrlCmd2 x cd52 y a) s = exec .dmaCopy u))

/-- O32. R282, R281, R286, R103, R104: a data write under the VRAM code, no fill armed. The stored bytes are at `addr` and
`addr ^ 1`; the sprite cache takes those of them that lie in its window, whose base and size R45 gives. -/
def Obligations.DataWriteVram : Prop :=
  ∀ (s : State) (v : Word),
    s.vdp.satBase.toNat =
      (if (s.vdp.r 12).getLsbD 0 then (s.vdp.r 5).toNat / 2 % 64 * 1024 else (s.vdp.r 5).toNat % 128 * 512) ∧
    s.vdp.satSize = (if (s.vdp.r 12).getLsbD 0 then 1024 else 512) ∧
    (s.vdp.fillPending = false →
    ∃ t, exec (.dataWriteVram v) s = .next t ∧
      t = { s with
        vdp := { s.vdp with
          vram := t.vdp.vram
          satCache := t.vdp.satCache
          fifo := #v[v, s.vdp.fifo[0], s.vdp.fifo[1], s.vdp.fifo[2]]
          pending := false
          addr := s.vdp.addr + (s.vdp.r 15).setWidth 16 }
        env := { s.env with reply := .done } } ∧
      (∀ k, t.vdp.vram.read k =
        if k = s.vdp.addr.toNat then v.extractLsb' 8 8
        else if k = (s.vdp.addr ^^^ 1).toNat then v.extractLsb' 0 8 else s.vdp.vram.read k) ∧
      (∀ k, t.vdp.satCache.read k =
        if k < s.vdp.satSize ∧ (s.vdp.satBase.toNat + k = s.vdp.addr.toNat ∨
            s.vdp.satBase.toNat + k = (s.vdp.addr ^^^ 1).toNat)
        then t.vdp.vram.read (s.vdp.satBase.toNat + k) else s.vdp.satCache.read k))

/-- O33. R283, R284, R106: a data write under the CRAM or VSRAM code, no fill armed: entry `(addr >> 1) & 0x3F` takes all 16
bits. -/
def Obligations.DataWriteCramVsram : Prop :=
  ∀ (s : State) (v : Word), s.vdp.fillPending = false →
    (∃ t, exec (.dataWriteCram v) s = .next t ∧
      t = { s with
        vdp := { s.vdp with
          cram := t.vdp.cram
          fifo := #v[v, s.vdp.fifo[0], s.vdp.fifo[1], s.vdp.fifo[2]]
          pending := false
          addr := s.vdp.addr + (s.vdp.r 15).setWidth 16 }
        env := { s.env with reply := .done } } ∧
      ∀ i : Fin 64, t.vdp.cram[i] = if i.val = s.vdp.addr.toNat / 2 % 64 then v else s.vdp.cram[i]) ∧
    (∃ t, exec (.dataWriteVsram v) s = .next t ∧
      t = { s with
        vdp := { s.vdp with
          vsram := t.vdp.vsram
          fifo := #v[v, s.vdp.fifo[0], s.vdp.fifo[1], s.vdp.fifo[2]]
          pending := false
          addr := s.vdp.addr + (s.vdp.r 15).setWidth 16 }
        env := { s.env with reply := .done } } ∧
      ∀ i : Fin 64, t.vdp.vsram[i] = if i.val = s.vdp.addr.toNat / 2 % 64 then v else s.vdp.vsram[i])

/-- O34. R285, R287: a data write under a write code without target pushes the FIFO and advances the address; under a read
code it only pushes the FIFO (no fill armed). -/
def Obligations.DataWriteWithoutTarget : Prop :=
  ∀ (s : State) (v : Word), s.vdp.fillPending = false →
    exec (.dataWriteNotarget v) s = .next { s with
      vdp := { s.vdp with
        fifo := #v[v, s.vdp.fifo[0], s.vdp.fifo[1], s.vdp.fifo[2]]
        pending := false
        addr := s.vdp.addr + (s.vdp.r 15).setWidth 16 }
      env := { s.env with reply := .done } } ∧
    exec (.dataWriteReadcode v) s = .next { s with
      vdp := { s.vdp with fifo := #v[v, s.vdp.fifo[0], s.vdp.fifo[1], s.vdp.fifo[2]], pending := false }
      env := { s.env with reply := .done } }

/-- O35. R280: with a fill armed, a data write of any row does its ordinary work and then fires the fill with its value. -/
def Obligations.DataWriteFiresFill : Prop :=
  ∀ (s : State) (v : Word), s.vdp.fillPending = true →
    ∀ i ∈ [Instr.dataWriteVram v, .dataWriteCram v, .dataWriteVsram v, .dataWriteNotarget v, .dataWriteReadcode v],
      ∃ u, exec i { s with vdp := { s.vdp with fillPending := false } } = .next u ∧
        exec i s = exec (.dmaFillFire v) { u with vdp := { u.vdp with fillPending := true } }

/-- O36. R290-R295: the value of a data read and what it changes: the latch, and under a valid read code the address. -/
def Obligations.DataReads : Prop :=
  ∀ s : State,
    let i : Fin 64 := ⟨s.vdp.addr.toNat / 2 % 64, Nat.mod_lt _ (by decide)⟩
    let u : State := { s with vdp := { s.vdp with
      pending := false, addr := s.vdp.addr + (s.vdp.r 15).setWidth 16 } }
    exec .dataReadVram s = .next (u.replied (.word
      (s.vdp.vram.read (s.vdp.addr &&& 0xFFFE).toNat ++ s.vdp.vram.read ((s.vdp.addr &&& 0xFFFE) ||| 1).toNat))) ∧
    exec .dataReadVsram s = .next (u.replied (.word
      ((s.vdp.vsram[i] &&& s.cfg.vsramMask) ||| (s.vdp.fifo[3] &&& (0xFFFF#16 &&& ~~~s.cfg.vsramMask))))) ∧
    exec .dataReadCram s = .next (u.replied (.word ((s.vdp.cram[i] &&& 0x0EEE#16) ||| (s.vdp.fifo[3] &&& 0xF111#16)))) ∧
    exec .dataReadVram8 s = .next (u.replied (.word
      ((s.vdp.vram.read (s.vdp.addr ^^^ 1).toNat).setWidth 16 ||| (s.vdp.fifo[3] &&& 0xFF00#16)))) ∧
    exec .dataReadInvalid s = .next { s with
      vdp := { s.vdp with pending := false }
      env := { s.env with draws := s.env.draws + 1, reply := .word (Config.freeBits 16 s.env.draws) } }

/-- O37. R300, R76: a status read returns the status word, whose bits 15:10 are free, and returns the latch to Idle; it
changes no flag. -/
def Obligations.StatusRead : Prop :=
  ∀ (s : State) (off : BitVec 5), ∃ w : Word,
    exec (.statusRead off) s = .next { s with
      vdp := { s.vdp with pending := false }
      env := { s.env with draws := s.env.draws + 1, reply := .word w } } ∧
    w.extractLsb' 10 6 = Config.freeBits 6 s.env.draws ∧
    w.getLsbD 9 = true ∧ w.getLsbD 8 = false ∧ w.getLsbD 7 = s.sched.f ∧
    w.getLsbD 6 = false ∧ w.getLsbD 5 = false ∧ w.getLsbD 4 = false ∧
    w.getLsbD 3 = s.sched.vb ∧ w.getLsbD 2 = s.sched.hb ∧ w.getLsbD 1 = s.vdp.fillPending ∧
    w.getLsbD 0 = (s.cfg.region == .pal)

/-- O38. R301-R304: the H/V counter is read latched or live and cannot be written; the PSG takes the low byte and reads
0xFFFF; the unused offsets read 0xFFFF and ignore writes. -/
def Obligations.CounterPsgUnused : Prop :=
  ∀ (s : State) (off : BitVec 5) (w : Word),
    ((s.vdp.r 0).getLsbD 1 = true → exec (.hvRead off) s = .next (s.replied (.word s.vdp.hvLatchValue))) ∧
    ((s.vdp.r 0).getLsbD 1 = false → exec (.hvRead off) s = .next { s with env := { s.env with
      draws := s.env.draws + 1, reply := .word (s.vLive ++ Config.freeBits 8 s.env.draws) } }) ∧
    exec (.hvWrite off w) s = .next (s.replied .done) ∧
    exec (.psgWrite off w) s = .next { s with env := { s.env with
      events := .psgWrite (w.extractLsb' 0 8) :: s.env.events, reply := .done } } ∧
    exec (.psgRead off) s = .next (s.replied (.word 0xFFFF)) ∧
    exec (.vdpUnused off .read) s = .next (s.replied (.word 0xFFFF)) ∧
    exec (.vdpUnused off (.write w)) s = .next (s.replied .done)

/-- O39. R305, R211: a byte write of a port is the word write of the byte in both halves; a byte read is one word read, of
which the half of the offset's bit 0 is returned. The VDP region's byte accesses are these. -/
def Obligations.BytePortAccess : Prop :=
  ∀ (s : State) (off : BitVec 5) (b : Byte) (a : Addr) (acc : Access 8),
    exec (.vdpByteAccess off (.write b)) s = exec (decodePort (off &&& 0x1E) (.write (b ++ b))) s ∧
    (∃ t w, exec (decodePort (off &&& 0x1E) .read) s = .next t ∧ t.env.reply = .word w ∧
      exec (.vdpByteAccess off .read) s =
        .next (t.replied (.byte (if off.getLsbD 0 then w.extractLsb' 0 8 else w.extractLsb' 8 8)))) ∧
    exec (.regionVdp a acc) s = exec (.vdpByteAccess (a.extractLsb' 0 5) acc) s

/-- O40. R306: a long access of a port is two word accesses, high half first, at e and e + 2. (That e + 2 repeats within the
32 offsets when e is 0x1E is the model's reading, log 11.) -/
def Obligations.LongPortAccess : Prop :=
  ∀ (s : State) (off : BitVec 5) (v : Long),
    exec (.vdpLongAccess off (.write v)) s =
      execAll [decodePort (off &&& 0x1E) (.write (v.extractLsb' 16 16)),
        decodePort ((off &&& 0x1E) + 2) (.write (v.extractLsb' 0 16))] s ∧
    ∃ u t hi lo, exec (decodePort (off &&& 0x1E) .read) s = .next u ∧ u.env.reply = .word hi ∧
      exec (decodePort ((off &&& 0x1E) + 2) .read) u = .next t ∧ t.env.reply = .word lo ∧
      exec (.vdpLongAccess off .read) s = .next (t.replied (.long (hi ++ lo)))

/-- O41. R440: the V half of the H/V counter, by region and height; at the last line of a frame, and after reset; in every
state it is that of the present line. (The field of the sampled height is the model's, log 9.) -/
def Obligations.VCounterTable : Prop :=
  ∀ line : Nat,
    (line ≤ 234 → (vCounter .ntsc false line).toNat = line) ∧
    (235 ≤ line → line ≤ 261 → (vCounter .ntsc false line).toNat = line - 235 + 0xE5) ∧
    (line ≤ 261 → (vCounter .ntsc true line).toNat = line % 256) ∧
    (line ≤ 258 → (vCounter .pal false line).toNat = line % 256) ∧
    (259 ≤ line → line ≤ 312 → (vCounter .pal false line).toNat = (line - 259 + 0x1CA) % 256) ∧
    (line ≤ 266 → (vCounter .pal true line).toNat = line % 256) ∧
    (267 ≤ line → line ≤ 312 → (vCounter .pal true line).toNat = (line - 267 + 0x1D2) % 256) ∧
    (∀ region v30, vCounter region v30 (totalLines region - 1) = if region = .ntsc ∧ v30 = true then 0x05 else 0xFF) ∧
    State.reset.vLive = 0 ∧
    ∀ s : State, s.vLive = vCounter s.cfg.region s.sched.frameV30 s.sched.curLine

/-! ### DMA -/

/-- O42. R325, R329: arming a fill sets fillPending and changes nothing else; a disabled DMA changes nothing. -/
def Obligations.FillArmAndDisabled : Prop :=
  ∀ s : State,
    exec .dmaFillArm s = .next { s with
      vdp := { s.vdp with fillPending := true }, env := { s.env with reply := .done } } ∧
    exec .dmaDisabled s = .next (s.replied .done)

/-- O43. R326, R321: the fill. It writes the high byte of v at `addr ^ 1` of each iteration's address under the VRAM code, the
whole word at the entry under the CRAM and VSRAM codes, nothing under any other; it zeroes the length registers. (That the
row, run on its own, clears fillPending is the model's reading, log 19.) -/
def Obligations.FillFire : Prop :=
  ∀ (s : State) (v : Word),
    let len : Nat := (s.vdp.r 19).toNat + 256 * (s.vdp.r 20).toNat
    let n : Nat := if len = 0 then 65536 else len
    let at_ : Nat → Word := fun j => s.vdp.addr + BitVec.ofNat 16 j * (s.vdp.r 15).setWidth 16
    ∃ t, exec (.dmaFillFire v) s = .next t ∧
      t = { s with
        vdp := { s.vdp with
          reg := t.vdp.reg
          vram := t.vdp.vram
          satCache := t.vdp.satCache
          cram := t.vdp.cram
          vsram := t.vdp.vsram
          addr := at_ n
          fillPending := false }
        env := { s.env with reply := .done } } ∧
      (∀ i : Fin 32, t.vdp.r i = if i = 19 ∨ i = 20 then 0 else s.vdp.r i) ∧
      (∀ k, (s.vdp.code &&& 0x0F = 0x01 ∧ ∃ j, j < n ∧ k = (at_ j ^^^ 1).toNat) →
        t.vdp.vram.read k = v.extractLsb' 8 8) ∧
      (∀ k, ¬(s.vdp.code &&& 0x0F = 0x01 ∧ ∃ j, j < n ∧ k = (at_ j ^^^ 1).toNat) →
        t.vdp.vram.read k = s.vdp.vram.read k) ∧
      (∀ k, (s.vdp.code &&& 0x0F = 0x01 ∧ k < s.vdp.satSize ∧ ∃ j, j < n ∧ s.vdp.satBase.toNat + k = (at_ j ^^^ 1).toNat) →
        t.vdp.satCache.read k = v.extractLsb' 8 8) ∧
      (∀ k, ¬(s.vdp.code &&& 0x0F = 0x01 ∧ k < s.vdp.satSize ∧ ∃ j, j < n ∧ s.vdp.satBase.toNat + k = (at_ j ^^^ 1).toNat) →
        t.vdp.satCache.read k = s.vdp.satCache.read k) ∧
      (∀ e : Fin 64, (s.vdp.code &&& 0x0F = 0x03 ∧ ∃ j, j < n ∧ e.val = (at_ j).toNat / 2 % 64) → t.vdp.cram[e] = v) ∧
      (∀ e : Fin 64, ¬(s.vdp.code &&& 0x0F = 0x03 ∧ ∃ j, j < n ∧ e.val = (at_ j).toNat / 2 % 64) →
        t.vdp.cram[e] = s.vdp.cram[e]) ∧
      (∀ e : Fin 64, (s.vdp.code &&& 0x0F = 0x05 ∧ ∃ j, j < n ∧ e.val = (at_ j).toNat / 2 % 64) → t.vdp.vsram[e] = v) ∧
      (∀ e : Fin 64, ¬(s.vdp.code &&& 0x0F = 0x05 ∧ ∃ j, j < n ∧ e.val = (at_ j).toNat / 2 % 64) →
        t.vdp.vsram[e] = s.vdp.vsram[e])

/-- O44. R327, and the round trip of 95_test_vectors.md section 1.3. The copy moves n bytes one at a time: byte k comes from
the k-th source, as the bytes before it have left it, and goes to the k-th destination, through the sprite cache. With
increment 1, a copy that reads no byte it has written leaves the source's bytes at the destination, and one whose destination
lies d bytes ahead of its source repeats the first d bytes (section 2.11). -/
def Obligations.CopyRoundTrip : Prop :=
  ∀ s : State,
    let n : Nat := s.vdp.dmaLength
    let inc : Word := (s.vdp.r 15).setWidth 16
    let src : Nat → Word := fun k => (s.vdp.r 22 ++ s.vdp.r 21) + BitVec.ofNat 16 k * inc
    let dst : Nat → Word := fun k => s.vdp.addr + BitVec.ofNat 16 k * inc
    ∃ (t : State) (moved : Nat → Byte), exec .dmaCopy s = .next t ∧
      t = { s with
        vdp := { s.vdp with reg := t.vdp.reg, vram := t.vdp.vram, satCache := t.vdp.satCache, addr := dst n }
        env := { s.env with reply := .done } } ∧
      (∀ i : Fin 32, t.vdp.r i = if i = 19 ∨ i = 20 then 0 else if i = 21 then (src n).extractLsb' 0 8
        else if i = 22 then (src n).extractLsb' 8 8 else s.vdp.r i) ∧
      (∀ k, k < n → (∀ j, j < k → dst j ≠ src k) → moved k = s.vdp.vram.read (src k).toNat) ∧
      (∀ j k, j < k → k < n → dst j = src k → (∀ i, j < i → i < k → dst i ≠ src k) → moved k = moved j) ∧
      (∀ k, k < n → (∀ i, k < i → i < n → dst i ≠ dst k) → t.vdp.vram.read (dst k).toNat = moved k) ∧
      (∀ x, (∀ k, k < n → x ≠ (dst k).toNat) → t.vdp.vram.read x = s.vdp.vram.read x) ∧
      (∀ x, x < s.vdp.satSize → (∃ k, k < n ∧ s.vdp.satBase.toNat + x = (dst k).toNat) →
        t.vdp.satCache.read x = t.vdp.vram.read (s.vdp.satBase.toNat + x)) ∧
      (∀ x, ¬(x < s.vdp.satSize ∧ ∃ k, k < n ∧ s.vdp.satBase.toNat + x = (dst k).toNat) →
        t.vdp.satCache.read x = s.vdp.satCache.read x) ∧
      (s.vdp.r 15 = 1 → (∀ j k, j < k → k < n → src k ≠ dst j) →
        ∀ k, k < n → t.vdp.vram.read (dst k).toNat = s.vdp.vram.read (src k).toNat) ∧
      (∀ d, s.vdp.r 15 = 1 → 0 < d → s.vdp.addr = src d → n + d ≤ 65536 →
        ∀ k, k < n → t.vdp.vram.read (dst k).toNat = s.vdp.vram.read (src (k % d)).toNat)

/-- O45. R322, R323, R222, R281: a CPU-to-VDP copy, for every code, increment, address, length and source. Word k is that of
ROM or work RAM at the k-th source address, or the next draw if that lies in any other region; it is pushed and goes to the
k-th destination address of the target the code selects, and no other cell of any memory changes. Last, the case of
increment 2, an even VRAM address and work RAM: 2n bytes move in order. -/
def Obligations.CpuCopyMovesWords : Prop :=
  ∀ s : State,
    let n : Nat := s.vdp.dmaLength
    let inc : Nat := (s.vdp.r 15).toNat
    let code : BitVec 6 := s.vdp.code &&& 0x0F
    let start : Nat := 131072 * ((s.vdp.r 23).toNat % 128) + 512 * (s.vdp.r 22).toNat + 2 * (s.vdp.r 21).toNat
    let even : Nat → Addr := fun k =>
      BitVec.ofNat 24 (start / 0x20000 * 0x20000 + (start + k * inc) % 0x20000) &&& 0xFFFFFE
    let isRom : Nat → Bool := fun k => (addrRow (even k)).region == .rom || (addrRow (even k)).region == .romMirror
    let isRam : Nat → Bool := fun k => (addrRow (even k)).region == .ram
    let word : Nat → Word := fun k =>
      if isRom k then s.bus.romByte (even k) ++ s.bus.romByte (even k + 1)
      else if isRam k then
        s.bus.wram.read ((even k).toNat % 0x10000) ++ s.bus.wram.read ((even k).toNat % 0x10000 + 1)
      else Config.freeBits 16 (s.env.draws + k)
    let dst : Nat → Word := fun k => s.vdp.addr + BitVec.ofNat 16 (k * inc)
    let entry : Nat → Nat := fun k => (dst k).toNat / 2 % 64
    ∃ t, exec .dma68k s = .next t ∧
      t = { s with
        vdp := { s.vdp with
          reg := t.vdp.reg
          vram := t.vdp.vram
          satCache := t.vdp.satCache
          cram := t.vdp.cram
          vsram := t.vdp.vsram
          fifo := t.vdp.fifo
          addr := dst n }
        env := { s.env with
          draws := if isRom 0 || isRam 0 then s.env.draws else s.env.draws + n
          reply := .done } } ∧
      (∀ i : Fin 4, t.vdp.fifo[i] =
        if i.val < n then word (n - 1 - i.val)
        else s.vdp.fifo[(⟨i.val - n, Nat.lt_of_le_of_lt (Nat.sub_le _ _) i.isLt⟩ : Fin 4)]) ∧
      (∀ k, k < n → code = 0x01 → (∀ j, k < j → j < n → dst j ≠ dst k ∧ dst j ≠ dst k ^^^ 1) →
        t.vdp.vram.read (dst k).toNat = (word k).extractLsb' 8 8 ∧
        t.vdp.vram.read (dst k ^^^ 1).toNat = (word k).extractLsb' 0 8) ∧
      (∀ x, ¬(code = 0x01 ∧ ∃ k, k < n ∧ (x = (dst k).toNat ∨ x = (dst k ^^^ 1).toNat)) →
        t.vdp.vram.read x = s.vdp.vram.read x) ∧
      (∀ x, x < s.vdp.satSize → code = 0x01 →
        (∃ k, k < n ∧ (s.vdp.satBase.toNat + x = (dst k).toNat ∨ s.vdp.satBase.toNat + x = (dst k ^^^ 1).toNat)) →
        t.vdp.satCache.read x = t.vdp.vram.read (s.vdp.satBase.toNat + x)) ∧
      (∀ x, ¬(x < s.vdp.satSize ∧ code = 0x01 ∧
          ∃ k, k < n ∧ (s.vdp.satBase.toNat + x = (dst k).toNat ∨ s.vdp.satBase.toNat + x = (dst k ^^^ 1).toNat)) →
        t.vdp.satCache.read x = s.vdp.satCache.read x) ∧
      (∀ (e : Fin 64) (k : Nat), k < n → code = 0x03 → e.val = entry k → (∀ j, k < j → j < n → entry j ≠ entry k) →
        t.vdp.cram[e] = word k) ∧
      (∀ e : Fin 64, ¬(code = 0x03 ∧ ∃ k, k < n ∧ e.val = entry k) → t.vdp.cram[e] = s.vdp.cram[e]) ∧
      (∀ (e : Fin 64) (k : Nat), k < n → code = 0x05 → e.val = entry k → (∀ j, k < j → j < n → entry j ≠ entry k) →
        t.vdp.vsram[e] = word k) ∧
      (∀ e : Fin 64, ¬(code = 0x05 ∧ ∃ k, k < n ∧ e.val = entry k) → t.vdp.vsram[e] = s.vdp.vsram[e]) ∧
      (code = 0x01 → s.vdp.r 15 = 2 → s.vdp.addr.getLsbD 0 = false → (s.vdp.r 23).extractLsb' 4 3 = 0b111 → n ≤ 32768 →
        let low : Nat := 512 * (s.vdp.r 22).toNat + 2 * (s.vdp.r 21).toNat
        (∀ k, k < 2 * n →
          t.vdp.vram.read ((s.vdp.addr.toNat + k) % 0x10000) = s.bus.wram.read ((low + k) % 0x10000)) ∧
        ∀ x, (∀ k, k < 2 * n → x ≠ (s.vdp.addr.toNat + k) % 0x10000) → t.vdp.vram.read x = s.vdp.vram.read x)

/-- O46. R331, R324, R328: what every run leaves: the length zeroed, the address advanced by n times the increment, code,
latch, register 23 and the flags as they were, no call made; the source registers of a CPU copy at the next source; and a
run of another mode leaves an armed fill armed. (That the fill's row, run on its own, clears fillPending is the model's
reading, log 19.) -/
def Obligations.RunsInCommon : Prop :=
  ∀ (s : State) (v : Word) (i : Instr), i ∈ [Instr.dma68k, .dmaCopy, .dmaFillFire v] →
    let n : Nat := s.vdp.dmaLength
    ∃ t, exec i s = .next t ∧
      t = { s with
        vdp := { s.vdp with
          reg := t.vdp.reg
          vram := t.vdp.vram
          satCache := t.vdp.satCache
          cram := t.vdp.cram
          vsram := t.vdp.vsram
          fifo := t.vdp.fifo
          addr := s.vdp.addr + BitVec.ofNat 16 n * (s.vdp.r 15).setWidth 16
          fillPending := if i = .dmaFillFire v then false else s.vdp.fillPending }
        env := { s.env with draws := t.env.draws, reply := .done } } ∧
      t.vdp.r 19 = 0 ∧ t.vdp.r 20 = 0 ∧
      (∀ j : Fin 32, j ≠ 19 → j ≠ 20 → j ≠ 21 → j ≠ 22 → t.vdp.r j = s.vdp.r j) ∧
      (i = .dma68k →
        let low : Nat := (131072 * ((s.vdp.r 23).toNat % 128) + 512 * (s.vdp.r 22).toNat + 2 * (s.vdp.r 21).toNat +
          n * (s.vdp.r 15).toNat) % 0x20000
        (t.vdp.r 21).toNat = low / 2 % 256 ∧ (t.vdp.r 22).toNat = low / 512)

/-- O47. R104, R119: the sprite cache stays in agreement with VRAM inside its window through every data write, every DMA run
and every second command word. -/
def Obligations.SpriteCacheFollowsVram : Prop :=
  ∀ (s : State) (v : Word) (x : Byte) (cd52 : BitVec 4) (y a : BitVec 2), s.vdp.CacheCoherent →
    ∀ i ∈ [Instr.dataWriteVram v, .dataWriteCram v, .dataWriteVsram v, .dataWriteNotarget v, .dataWriteReadcode v,
        .dmaFillFire v, .dma68k, .dmaCopy, .ctrlCmd2 x cd52 y a],
      ∃ t, exec i s = .next t ∧ t.vdp.CacheCoherent

/-- O48. R330: what keeps an armed fill armed, and what clears it. Control words, reads of every kind, accesses outside the
data port, the other DMA runs, renders, a frame in which the CPUs issue nothing and a refused cartridge keep it; a write that
reaches the data port from either bus, in any width, Reset and a cartridge load clear it. -/
def Obligations.ArmedFillSurvives : Prop :=
  ∀ (s : State), s.vdp.fillPending = true →
    let keeps : Instr → Prop := fun i => ∃ t, exec i s = .next t ∧ t.vdp.fillPending = true
    let clears : Instr → Prop := fun i => ∃ t, exec i s = .next t ∧ t.vdp.fillPending = false
    (∀ (v : Word) (b : Byte) (x : BitVec 1) (r : BitVec 5) (c : BitVec 2) (a : BitVec 14) (z : Byte) (d : BitVec 4)
        (e f : BitVec 2),
      (∀ i ∈ [Instr.ctrlRegwrite x r b, .ctrlCmd1 c a, .ctrlCmd2 z d e f, .dma68k, .dmaCopy, .dmaFillArm, .dmaDisabled,
          .renderLine b], keeps i) ∧
      ∀ i ∈ [Instr.dataWriteVram v, .dataWriteCram v, .dataWriteVsram v, .dataWriteNotarget v, .dataWriteReadcode v,
          .dmaFillFire v], clears i) ∧
    (∀ off : BitVec 5, ∀ i ∈ [Instr.dataReadVram, .dataReadVsram, .dataReadCram, .dataReadVram8, .dataReadInvalid,
        .statusRead off, .hvRead off, .psgRead off, .vdpUnused off .read, .vdpDataPort off .read, .vdpControlPort off .read,
        .vdpHvPort off .read, .vdpPsgPort off .read, .vdpUnusedPort off .read, .vdpByteAccess off .read,
        .vdpLongAccess off .read], keeps i) ∧
    (∀ (off : BitVec 5) (v : Word) (b : Byte) (l : Long),
      (∀ i ∈ [Instr.hvWrite off v, .psgWrite off v, .vdpUnused off (.write v)], keeps i) ∧
      (4 ≤ off.toNat → ∀ i ∈ [Instr.vdpControlPort off (.write v), .vdpHvPort off (.write v), .vdpPsgPort off (.write v),
        .vdpUnusedPort off (.write v), .vdpByteAccess off (.write b)], keeps i) ∧
      (4 ≤ off.toNat → off.toNat < 0x1E → keeps (.vdpLongAccess off (.write l))) ∧
      (off.toNat < 4 → clears (.vdpDataPort off (.write v)) ∧ clears (.vdpByteAccess off (.write b)) ∧
        clears (.vdpLongAccess off (.write l)))) ∧
    (∀ (a : Addr) (acc : Access 8), ∀ i ∈ [Instr.regionRom a acc, .regionRommirror a acc, .regionRommirror2 a acc,
        .regionSoundram a acc, .regionSynth a acc, .regionSoundbank a acc, .regionSoundvdp a acc, .regionUnmapped a acc,
        .regionSoundromview a acc, .regionIo a acc, .regionBusreq a acc, .regionSoundreset a acc, .regionUnmapped2 a acc,
        .regionRam a acc, .regionUnmapped3 a acc, .regionVdp a .read, .dmaSourceRead16 a], keeps i) ∧
    (∀ (a : Addr) (b : Byte), if a.toNat % 32 < 4 then clears (.regionVdp a (.write b)) else keeps (.regionVdp a (.write b))) ∧
    (∀ (a : Long) (z : Word) (v : Word) (b : Byte) (l : Long),
      let dataPort : Addr → Prop := fun a => (addrRow a).region = .vdp ∧ a.toNat % 32 < 4
      let first : Addr := a.setWidth 24
      let bank : Addr := s.bus.bank ++ z.extractLsb' 0 15
      let soundData : Prop := z.toNat % 32 < 4 ∧ (0x7F00 ≤ z.toNat ∧ z.toNat < 0x8000 ∨ 0x8000 ≤ z.toNat ∧ dataPort bank)
      (∀ i ∈ [Instr.read8 a, .read16 a, .read32 a, .sread8 z], keeps i) ∧
      (dataPort first → ∀ i ∈ [Instr.write8 a b, .write16 a v, .write32 a l], clears i) ∧
      (¬dataPort first → ∀ i ∈ [Instr.write8 a b, .write16 a v], keeps i) ∧
      (dataPort (first + 2) → clears (.write32 a l)) ∧
      (¬dataPort first → ¬dataPort (first + 2) → keeps (.write32 a l)) ∧
      (soundData → clears (.swrite8 z b)) ∧ (¬soundData → keeps (.swrite8 z b))) ∧
    (s.CpusIdle → keeps .runFrame) ∧ clears .reset ∧
    ∀ blob : List Byte, if blob.length ≤ 0x400000 then clears (.loadCartridge blob) else keeps (.loadCartridge blob)

/-! ### The compositor -/

/-- O49. R360, R377, R378, R379: rendering a visible line with the display on writes the packed colours of its `width` pixels
into its row and nothing else; a line that is not visible, or any line with the display off, is not rendered. (That a line
requested between frames is visible by the height the registers select then is the model's reading, log 12.) -/
def Obligations.RenderLineWritesItsRow : Prop :=
  ∀ (s : State) (y : Byte),
    let rendered : Bool := (s.vdp.r 1).getLsbD 6 && decide (y.toNat < if (s.vdp.r 1).getLsbD 3 then 240 else 224)
    (rendered = true →
      ∃ t, exec (.renderLine y) s = .next t ∧
        t = { s with fb := t.fb, env := { s.env with reply := .done } } ∧
        ∀ (j : Fin 240) (x : Fin 320), t.fb[j][x] =
          if j.val = y.toNat ∧ x.val < (if (s.vdp.r 12).getLsbD 0 then 320 else 256)
          then packColor s.cfg (s.vdp.buf x.val j.val) else s.fb[j][x]) ∧
    (rendered = false → exec (.renderLine y) s = .next (s.replied .done))

/-- O50. R378: rendering the same line twice changes nothing the second time. -/
def Obligations.RenderIdempotent : Prop :=
  ∀ (s t : State) (y : Byte), exec (.renderLine y) s = .next t → exec (.renderLine y) t = .next t

/-- O51. R360-R363, R367-R369, R372, R375, R376, with R156-R158 and R160: a pixel of the line shows the first layer that has a
colour for it, from the top: the high tier's window, sprites in the order found, plane A, plane B, then the low tier's, then
the backdrop. A colour has bits 0x0EEE only. What each layer has there: plane A outside the window and plane B, and the window
inside it, show the dot of the cell of their nametable under the pixel; a sprite that spans the line shows, inside its
columns, the dot of its cells, numbered down each column first, the whole sprite flipped. A dot has a colour if the entry's
priority is the tier and the dot is not 0. -/
def Obligations.PixelIsTopmostLayer : Prop :=
  ∀ (v : VdpState) (x y : Nat),
    let tier : Bool → List (Option Word) := fun p =>
      [v.windowPixel p x y] ++ (v.spriteQueue y).map (fun n => v.spritePixel n p x y) ++
        [v.planePixel .a p x y, v.planePixel .b p x y]
    let colour : Nat → Word := fun i => v.cram[(⟨i % 64, Nat.mod_lt _ (by decide)⟩ : Fin 64)] &&& 0x0EEE
    let word : Nat → Word := fun a => v.vram.read (a % 0x10000 / 2 * 2) ++ v.vram.read (a % 0x10000 / 2 * 2 + 1)
    let dot : Nat → Nat → Nat → Nat := fun tile row col =>
      (v.vram.read ((32 * tile + 4 * row + col / 2) % 0x10000)).toNat / (if col % 2 = 0 then 16 else 1) % 16
    let paint : Word → Bool → Nat → Option Word := fun e p d =>
      if e.getLsbD 15 = p ∧ d ≠ 0 then some (colour (e.toNat / 8192 % 4 * 16 + d)) else none
    let cell : Word → Bool → Nat → Nat → Option Word := fun e p fx fy =>
      paint e p (dot (e.toNat % 2048) (if e.getLsbD 12 then 7 - fy else fy) (if e.getLsbD 11 then 7 - fx else fx))
    let onPlane : Plane → Nat → Bool → Option Word := fun q base p =>
      cell (word (base + 2 * (v.planeY q x y / 8 * v.planeW + v.planeX q x y / 8))) p (v.planeX q x y % 8)
        (v.planeY q x y % 8)
    v.buf x y = ((tier true ++ tier false).findSome? id).getD (colour (v.r 7).toNat) ∧
    v.buf x y &&& 0x0EEE = v.buf x y ∧
    (∀ p : Bool,
      v.planePixel .a p x y =
        (if v.inWindow x y then none else onPlane .a ((v.r 2).toNat / 8 % 8 * 8192) p) ∧
      v.planePixel .b p x y = onPlane .b ((v.r 4).toNat % 8 * 8192) p ∧
      v.windowPixel p x y =
        if v.inWindow x y then
          if (v.r 12).getLsbD 0 then
            cell (word ((v.r 3).toNat / 4 % 16 * 4096 + 2 * (y / 8 * 64 + x / 8))) p (x % 8) (y % 8)
          else cell (word ((v.r 3).toNat / 2 % 32 * 2048 + 2 * (y / 8 * 32 + x / 8))) p (x % 8) (y % 8)
        else none) ∧
    ∀ (p : Bool) (n : Nat), v.spriteOnLine n y = true →
      let attr : Word := word (v.satBase.toNat + 8 * n + 4)
      let left : Int := ((word (v.satBase.toNat + 8 * n + 6)).toNat % 512 : Nat) - 128
      let w : Nat := (v.satCache.read (8 * n + 2)).toNat / 4 % 4 + 1
      let h : Nat := (v.satCache.read (8 * n + 2)).toNat % 4 + 1
      (∀ col row : Nat, (x : Int) = left + col → (y : Int) = (v.spriteY n : Int) - 128 + row → col < 8 * w →
        v.spritePixel n p x y =
          let c : Nat := if attr.getLsbD 11 then 8 * w - 1 - col else col
          let r : Nat := if attr.getLsbD 12 then 8 * h - 1 - row else row
          paint attr p (dot ((attr.toNat + c / 8 * h + r / 8) % 2048) (r % 8) (c % 8))) ∧
      ((x : Int) < left ∨ left + 8 * w ≤ x → v.spritePixel n p x y = none)

/-- O52. R370, R371: at each pixel exactly one of plane A and the window may draw; the vertical band overrides the
horizontal split; with registers 17 and 18 zero there is no window. -/
def Obligations.WindowReplacesPlaneA : Prop :=
  ∀ (v : VdpState) (p : Bool) (x y : Nat),
    (v.inWindow x y = true → v.planePixel .a p x y = none) ∧
    (v.inWindow x y = false → v.windowPixel p x y = none) ∧
    (v.r 17 = 0 → v.r 18 = 0 → v.inWindow x y = false) ∧
    ((v.r 18).getLsbD 7 = false → y < 8 * ((v.r 18).toNat % 32) → v.inWindow x y = true) ∧
    ((v.r 18).getLsbD 7 = true → 8 * ((v.r 18).toNat % 32) ≤ y → v.inWindow x y = true) ∧
    (((v.r 18).getLsbD 7 = false ∧ 8 * ((v.r 18).toNat % 32) ≤ y ∨ (v.r 18).getLsbD 7 = true ∧ y < 8 * ((v.r 18).toNat % 32)) →
      (v.inWindow x y = true ↔
        if (v.r 17).getLsbD 7 then 16 * ((v.r 17).toNat % 32) ≤ x else x < 16 * ((v.r 17).toNat % 32)))

/-- O53. R373, R374, R160: the traversal visits entry 0 and then each next entry by its link, until a link is 0 or 80 entries
have been visited, and queues those of them that span the line, in the order visited. So it queues at most 80 entries, for any
cache content. Y, link and height come from the cache. -/
def Obligations.SpriteTraversalBounded : Prop :=
  ∀ (v : VdpState) (y : Nat),
    let visit : Nat → Nat := fun k => v.spriteLink^[k] 0
    (∀ n, v.spriteLink n = (v.satCache.read (8 * n + 3)).toNat % 128 ∧
      v.spriteY n = (256 * (v.satCache.read (8 * n)).toNat + (v.satCache.read (8 * n + 1)).toNat) % 512 ∧
      (v.spriteOnLine n y = true ↔ (v.spriteY n : Int) - 128 ≤ y ∧
        (y : Int) < (v.spriteY n : Int) - 128 + 8 * ((v.satCache.read (8 * n + 2)).toNat % 4 + 1))) ∧
    (∃ m, 1 ≤ m ∧ m ≤ 80 ∧ (∀ k, k + 1 < m → v.spriteLink (visit k) ≠ 0) ∧
      (m < 80 → v.spriteLink (visit (m - 1)) = 0) ∧
      v.spriteQueue y = ((List.range m).map visit).filter (fun n => v.spriteOnLine n y)) ∧
    (v.spriteQueue y).length ≤ 80 ∧
    (∀ n ∈ v.spriteQueue y, n < 128 ∧ (v.spriteY n : Int) - 128 ≤ y ∧
      (y : Int) < (v.spriteY n : Int) - 128 + 8 * ((v.spriteSize n).toNat % 4 + 1)) ∧
    (v.spriteOnLine 0 y = true → (v.spriteQueue y).head? = some 0) ∧
    (v.spriteLink 0 = 0 → v.spriteQueue y = if v.spriteOnLine 0 y then [0] else [])

/-- O54. R364-R367, R161, R162, R164: the planes' sizes, the scroll values by mode, line and column, and what they do: bits 9:0
act as two's complement, a positive horizontal scroll moves the plane right and a positive vertical scroll moves it up, within
the plane's size. -/
def Obligations.ScrollIsTwosComplement : Prop :=
  ∀ (v : VdpState) (p : Plane) (x y : Nat),
    let cells : Nat → Nat := fun d => if d % 4 = 1 then 64 else if d % 4 = 3 then 128 else 32
    let b : Nat := if p = .a then 0 else 1
    let row : Nat :=
      match (v.r 11).toNat % 4 with
      | 0 => 0
      | 1 => y % 8
      | 2 => y / 8 * 8
      | _ => y
    let at_ : Nat := ((v.r 13).toNat % 64 * 1024 + 4 * row + 2 * b) % 0x10000
    let entry : Nat := (if (v.r 11).getLsbD 2 then 2 * (x / 16) + b else b) % 64
    v.planeW = cells (v.r 16).toNat ∧ v.planeH = cells ((v.r 16).toNat / 16) ∧
    v.hScroll p y = (256 * (v.vram.read at_).toNat + (v.vram.read (at_ + 1)).toNat) % 1024 ∧
    (∀ i : Fin 64, i.val = entry → v.vScroll p x = v.vsram[i].toNat % 1024) ∧
    (v.planeX p x y : Int) =
      ((x : Int) - ((BitVec.ofNat 10 (v.hScroll p y)).toInt)) % (8 * v.planeW : Nat) ∧
    (v.planeY p x y : Int) =
      ((y : Int) + ((BitVec.ofNat 10 (v.vScroll p x)).toInt)) % (8 * v.planeH : Nat)

/-! ### The scheduler and the host -/

/-- O55. R430, R431, R442, R443, R41: a frame leaves VB and F set, HB clear, the scheduler Idle at the last line, and the rows
from the frame's height on as they were (R379), whatever the CPUs do in it; and a primary CPU that reads the status word once
in each of its budgets sees VB, HB and F as R442 lists them, whatever the sound CPU does; and one that reads the H/V counter
once in each, with the latch off and the sound CPU idle, sees in every budget of line y the V counter of line y (R432, R437,
R439, R440). (That the height is a field of the state is log 9; the budgets' transactions and their replies are those of logs
3 and 5.) -/
def Obligations.FrameLeavesFlags : Prop :=
  ∀ s : State,
    let height : Nat := if (s.vdp.r 1).getLsbD 3 then 240 else 224
    let total : Nat := totalLines s.cfg.region
    s.vdp.height = height ∧
    ∃ t, exec .runFrame s = .next t ∧ t.sched.vb = true ∧ t.sched.hb = false ∧ t.sched.f = true ∧
    t.sched.phase = .idle ∧ t.sched.curLine = total - 1 ∧ t.sched.frameV30 = (s.vdp.r 1).getLsbD 3 ∧
    (∀ (j : Fin 240) (x : Fin 320), height ≤ j.val → t.fb[j][x] = s.fb[j][x]) ∧
    (s.env.cpuScript = List.replicate (total + height + 1) [.read16 0xC00004] →
      t.env.events.filterMap Event.blanksSeen =
        ((List.replicate height [(false, false, false), (false, true, false)]).flatten ++ [(true, false, false)] ++
          List.replicate (total - height) (true, false, true)).reverse ++ s.env.events.filterMap Event.blanksSeen) ∧
    (s.env.cpuScript = List.replicate (total + height + 1) [.read16 0xC00008] → s.env.soundScript = [] →
      (s.vdp.r 0).getLsbD 1 = false →
      let v : Nat → Byte := vCounter s.cfg.region ((s.vdp.r 1).getLsbD 3)
      (t.env.events.filterMap Event.wordSeen).map (fun w => w.extractLsb' 8 8) =
        ((List.range total).flatMap fun y => if y ≤ height then [v y, v y] else [v y]).reverse ++
          (s.env.events.filterMap Event.wordSeen).map (fun w => w.extractLsb' 8 8))

/-- O56. R430, R432, R434, R436, R437, R439: the budgets and ticks of a frame, line by line in the scheduler's order, whatever
the CPUs do in it. So it ticks the synthesizer TOTAL_LINES times, gives the sound CPU TOTAL_LINES budgets of CPU_LINE_CYCLES /
SOUND_DIVISOR, and hands the primary CPU CPU_LINE_CYCLES a line. (The calls are events of the state, log 5.) -/
def Obligations.FrameTicksAndCycles : Prop :=
  ∀ s : State,
    let height : Nat := if (s.vdp.r 1).getLsbD 3 then 240 else 224
    let total : Nat := totalLines s.cfg.region
    let line : Nat := s.cfg.cpuActiveCycles + s.cfg.cpuHblankCycles
    let sound : Event := .soundExecute (line / s.cfg.soundDivisor)
    ∃ t, exec .runFrame s = .next t ∧
    t.env.events.filter Event.ofLine =
      ((List.replicate height
          [.cpuExecute s.cfg.cpuActiveCycles, sound, .cpuExecute s.cfg.cpuHblankCycles, .synthTick]).flatten ++
        [.cpuExecute s.cfg.cpuVblankEntryCycles, sound, .cpuExecute (line - s.cfg.cpuVblankEntryCycles), .synthTick] ++
        (List.replicate (total - (height + 1)) [.cpuExecute line, sound, .synthTick]).flatten).reverse ++
      s.env.events.filter Event.ofLine ∧
    t.env.events.count sound = s.env.events.count sound + total ∧
    t.env.events.countP (fun e => e == .synthTick) = s.env.events.countP (fun e => e == .synthTick) + total ∧
    (s.cfg.cpuVblankEntryCycles ≤ line →
      (t.env.events.map Event.cpuCycles).sum = (s.env.events.map Event.cpuCycles).sum + total * line)

/-- O57. R433, R431: with IE1 set and R10 = N, the line interrupt fires on visible lines N, 2N+1, 3N+2, …: after k visible
lines it has fired k / (N+1) times. With IE1 clear it never fires. The counter counts either way, from N at the frame's start,
on visible lines only: it is N - k % (N+1) after k of them and stays at the last of these when the frame has run. (These for CPUs
that issue no transaction, so that R0 and R10 stay.) In every state one step of the counter reloads it from R10 if it is 0,
and then asserts level 4 if IE1 is set, and lowers it by 1 otherwise, and does nothing else (R433, R473); and whatever the CPUs
do, a visible line takes this one step, on the registers as the line's first budgets leave them (R432). (The calls are events
of the state, log 5.) -/
def Obligations.LineInterruptCadence : Prop :=
  (∀ s : State,
    let zero : Bool := s.sched.hintCounter == 0
    s.lineCounterStep = { s with
      sched := { s.sched with hintCounter := if zero then s.vdp.r 10 else s.sched.hintCounter - 1 }
      env := { s.env with events :=
        if zero && (s.vdp.r 0).getLsbD 4 then .assertInterrupt 4 :: s.env.events else s.env.events } }) ∧
  (∀ (s : State) (y : Nat),
    let u : State := (((s.setLine y).setPhase .active).cpuExecute s.cfg.cpuActiveCycles).soundExecute
      ((s.cfg.cpuActiveCycles + s.cfg.cpuHblankCycles) / s.cfg.soundDivisor)
    u.sched = (s.setLine y |>.setPhase .active).sched ∧
    (s.visibleLine y).sched.hintCounter = u.lineCounterStep.sched.hintCounter ∧
    (s.visibleLine y).env.events.count (.assertInterrupt 4) = u.lineCounterStep.env.events.count (.assertInterrupt 4)) ∧
  ∀ s : State, s.CpusIdle →
    let height : Nat := if (s.vdp.r 1).getLsbD 3 then 240 else 224
    let fired : State → Nat := fun t => t.env.events.count (.assertInterrupt 4)
    let reload : Nat := (s.vdp.r 10).toNat
    let per : Nat := reload + 1
    (∀ k, let t := (List.range k).foldl State.visibleLine s.frameStart
      fired t = fired s + (if (s.vdp.r 0).getLsbD 4 then k / per else 0) ∧
      t.sched.hintCounter.toNat = reload - k % per) ∧
    ∃ t, exec .runFrame s = .next t ∧ fired t = fired s + (if (s.vdp.r 0).getLsbD 4 then height / per else 0) ∧
      t.sched.hintCounter.toNat = reload - height % per

/-- O58. R437, R438: the frame interrupt is asserted at most once per frame, and exactly once if IE0 is set and the CPUs issue
no transaction. R432, R435: with CPUs that issue none, a frame with the display on renders each row below its height, and one
with the display off leaves the framebuffer as it was. R380, R432, R435: whatever the CPUs do, a visible line, if the
display is on when its budgets have run, renders its row from the VDP's state as it is then, and writes nothing else of the
framebuffer; and the frame's framebuffer is that after its visible lines. (The calls are events of the state, log 5.) -/
def Obligations.FrameInterrupt : Prop :=
  (∀ (s : State) (y : Nat), y < 240 →
    let t : State := s.visibleLine y
    ∀ (j : Fin 240) (x : Fin 320), t.fb[j][x] =
      if j.val = y ∧ (t.vdp.r 1).getLsbD 6 = true ∧ x.val < (if (t.vdp.r 12).getLsbD 0 then 320 else 256)
      then packColor s.cfg (t.vdp.buf x.val y) else s.fb[j][x]) ∧
  ∀ s : State, ∃ t, exec .runFrame s = .next t ∧
    t.fb = ((List.range (if (s.vdp.r 1).getLsbD 3 then 240 else 224)).foldl State.visibleLine s.frameStart).fb ∧
    t.env.events.count (.assertInterrupt 6) ≤ s.env.events.count (.assertInterrupt 6) + 1 ∧
    (s.CpusIdle → t.env.events.count (.assertInterrupt 6) =
      s.env.events.count (.assertInterrupt 6) + if (s.vdp.r 1).getLsbD 5 then 1 else 0) ∧
    (s.CpusIdle → (s.vdp.r 1).getLsbD 6 = true → ∀ (j : Fin 240) (x : Fin 320), t.fb[j][x] =
      if j.val < (if (s.vdp.r 1).getLsbD 3 then 240 else 224) ∧ x.val < (if (s.vdp.r 12).getLsbD 0 then 320 else 256)
      then packColor s.cfg (s.vdp.buf x.val j.val) else s.fb[j][x]) ∧
    (s.CpusIdle → (s.vdp.r 1).getLsbD 6 = false → t.fb = s.fb)

/-- O59. R501, R99: Reset sets every element to its reset value, keeps the ROM, and makes its two calls. (That it keeps the
parameters and the rest of the environment is the model's choice, log 22.) -/
def Obligations.ResetSetsEverything : Prop :=
  ∀ s : State, ∃ t, exec .reset s = .next t ∧
    t.bus.rom = s.bus.rom ∧ t.bus.romSize = s.bus.romSize ∧
    (∀ k, t.bus.wram.read k = 0) ∧ (∀ k, t.bus.sram.read k = 0) ∧
    t.bus.bank = 0 ∧ t.bus.busReq = false ∧ t.bus.soundReset = false ∧
    (∀ i : Fin 32, t.vdp.r i = 0) ∧ (∀ k, t.vdp.vram.read k = 0) ∧
    (∀ i : Fin 64, t.vdp.cram[i] = 0) ∧ (∀ i : Fin 64, t.vdp.vsram[i] = 0) ∧ (∀ k, t.vdp.satCache.read k = 0) ∧
    (∀ i : Fin 4, t.vdp.fifo[i] = 0) ∧ t.vdp.pending = false ∧ t.vdp.code = 0 ∧ t.vdp.addr = 0 ∧
    t.vdp.fillPending = false ∧ t.vdp.hvLatchValue = 0 ∧
    t.sched.vb = false ∧ t.sched.hb = false ∧ t.sched.f = false ∧ t.sched.hintCounter = 0 ∧ t.sched.curLine = 0 ∧
    t.sched.phase = .idle ∧ (∀ (y : Fin 240) (x : Fin 320), t.fb[y][x] = 0) ∧
    t.cfg = s.cfg ∧
    t.env = { s.env with events := .setReset true :: .setBusRequest false :: s.env.events, reply := .done }

/-- O60. R502: an oversize blob is reported and changes nothing; any other leaves the state after reset with the blob in ROM,
and a read past it gives 0xFF. (How the result is reported is log 13.) -/
def Obligations.LoadCartridge : Prop :=
  ∀ (s : State) (blob : List Byte),
    (0x400000 < blob.length → exec (.loadCartridge blob) s = .next (s.replied .tooLarge)) ∧
    (blob.length ≤ 0x400000 → ∃ u t, exec .reset s = .next u ∧ exec (.loadCartridge blob) s = .next t ∧
      t = { u with
        bus := { u.bus with rom := t.bus.rom, romSize := blob.length }
        env := { u.env with reply := .loaded } } ∧
      (∀ k, t.bus.rom.read k = blob.getD k 0) ∧
      ∀ a : Addr, a.toNat < 0x400000 →
        exec (.regionRom a .read) t = .next (t.replied (.byte (blob.getD a.toNat 0xFF))))

end Statements
end

