-- ==== Sys2Proof/Laws/Decode.lean ====
section
/-! SUPPORT. The request format's byte-order helpers are inverse to each other, every tag byte stands for its kind, and the
address table's rows agree with `classify`. -/

namespace Sys2Proof.Laws

/-! ### Byte order -/

theorem le16_bytes (v : Word) : le16 (v.extractLsb' 0 8) (v.extractLsb' 8 8) = v := by
  unfold le16
  ext i hi
  simp only [BitVec.getElem_append, BitVec.getElem_extractLsb']
  split_ifs <;> rw [BitVec.getLsbD_eq_getElem (by omega)] <;> congr 1 <;> omega

theorem le24_bytes (v : Addr) : le24 (v.extractLsb' 0 8) (v.extractLsb' 8 8) (v.extractLsb' 16 8) = v := by
  unfold le24
  ext i hi
  simp only [BitVec.getElem_append, BitVec.getElem_extractLsb']
  split_ifs <;> rw [BitVec.getLsbD_eq_getElem (by omega)] <;> congr 1 <;> omega

theorem le32_bytes (v : Long) :
    le32 (v.extractLsb' 0 8) (v.extractLsb' 8 8) (v.extractLsb' 16 8) (v.extractLsb' 24 8) = v := by
  unfold le32
  ext i hi
  simp only [BitVec.getElem_append, BitVec.getElem_extractLsb']
  split_ifs <;> rw [BitVec.getLsbD_eq_getElem (by omega)] <;> congr 1 <;> omega

/-- The low part of a concatenation. -/
theorem extract_append_low {m n : Nat} (x : BitVec m) (y : BitVec n) : (x ++ y).extractLsb' 0 n = y := by
  ext i hi
  simp [BitVec.getElem_extractLsb', BitVec.getLsbD_append, hi]

/-- A field of the high part of a concatenation. -/
theorem extract_append_high {m n k w : Nat} (x : BitVec m) (y : BitVec n) :
    (x ++ y).extractLsb' (n + k) w = x.extractLsb' k w := by
  ext i hi
  simp only [BitVec.getElem_extractLsb', BitVec.getLsbD_append]
  rw [if_neg (by omega)]
  congr 1
  omega

/-- A field of the low part of a concatenation. -/
theorem extract_append_of_le {m n k w : Nat} (x : BitVec m) (y : BitVec n) (h : k + w ≤ n) :
    (x ++ y).extractLsb' k w = y.extractLsb' k w := by
  ext i hi
  simp only [BitVec.getElem_extractLsb', BitVec.getLsbD_append]
  rw [if_pos (by omega)]

/-- The whole of a bit vector. -/
theorem extract_all {n : Nat} (x : BitVec n) : x.extractLsb' 0 n = x := by
  ext i hi
  simp

theorem bytes16_le16 (a b : Byte) : bytes16 (le16 a b) = [a, b] := by
  unfold bytes16 le16
  rw [extract_append_low, extract_append_high (n := 8) (k := 0), extract_all]

theorem bytes24_le24 (a b c : Byte) : bytes24 (le24 a b c) = [a, b, c] := by
  unfold bytes24 le24
  rw [extract_append_of_le _ _ (by decide), extract_append_of_le _ _ (by decide),
    extract_append_of_le (k := 8) _ _ (by decide), extract_append_high (n := 16) (k := 0),
    extract_append_high (n := 8) (k := 0), extract_all, extract_all, extract_all]

theorem bytes32_le32 (a b c d : Byte) : bytes32 (le32 a b c d) = [a, b, c, d] := by
  unfold bytes32 le32
  rw [extract_append_of_le _ _ (by decide), extract_append_of_le _ _ (by decide), extract_append_of_le _ _ (by decide),
    extract_append_of_le (k := 8) _ _ (by decide), extract_append_of_le (k := 8) _ _ (by decide),
    extract_append_of_le (k := 16) _ _ (by decide),
    extract_append_high (n := 24) (k := 0), extract_append_high (n := 16) (k := 0),
    extract_append_high (n := 8) (k := 0), extract_all, extract_all, extract_all, extract_all]

/-! ### Port offsets and tags -/

theorem offByte_lt (off : BitVec 5) : (offByte off).toNat < 32 := by
  have := off.isLt
  simp only [offByte, BitVec.toNat_setWidth]
  omega

theorem setWidth_offByte (off : BitVec 5) : (offByte off).setWidth 5 = off := by
  unfold offByte
  ext i hi
  simp

theorem offByte_setWidth (b : Byte) (h : b.toNat < 32) : offByte (b.setWidth 5) = b := by
  apply BitVec.eq_of_toNat_eq
  simp only [offByte, BitVec.toNat_setWidth]
  omega

theorem tagOf_byte (t : Tag) : tagOf t.byte = some t := by cases t <;> rfl

theorem byte_of_tagOf {b : Byte} {t : Tag} (h : tagOf b = some t) : t.byte = b := by
  simpa using List.find?_some h

theorem mem_all (t : Tag) : t ∈ Tag.all := by cases t <;> decide

/-! ### One request of each format -/

/-- A request's tag chooses the format of its operands. -/
theorem decode_tag (c : DecodeCtx) (t : Tag) (args : List Byte) : decode c (t.byte :: args) = decodeArgs c t args := by
  unfold decode
  simp only [tagOf_byte]

/-! Each reader of an operand takes the operand's bytes, and accepts no others. -/

theorem takeByte_cons (t : Tag) (b : Byte) (r : List Byte) (k : Byte → List Byte → Except DecodeError Instr) :
    takeByte t (b :: r) k = k b r := rfl

theorem takeWord_bytes (t : Tag) (v : Word) (r : List Byte) (k : Word → List Byte → Except DecodeError Instr) :
    takeWord t (bytes16 v ++ r) k = k v r := by
  show k (le16 _ _) r = _
  rw [le16_bytes]

theorem takeAddr_bytes (t : Tag) (a : Addr) (r : List Byte) (k : Addr → List Byte → Except DecodeError Instr) :
    takeAddr t (bytes24 a ++ r) k = k a r := by
  show k (le24 _ _ _) r = _
  rw [le24_bytes]

theorem takeLong_bytes (t : Tag) (a : Long) (r : List Byte) (k : Long → List Byte → Except DecodeError Instr) :
    takeLong t (bytes32 a ++ r) k = k a r := by
  show k (le32 _ _ _ _) r = _
  rw [le32_bytes]

theorem takeOffset_offByte (t : Tag) (off : BitVec 5) (r : List Byte)
    (k : BitVec 5 → List Byte → Except DecodeError Instr) : takeOffset t (offByte off :: r) k = k off r := by
  unfold takeOffset
  dsimp only
  rw [if_pos (offByte_lt off), setWidth_offByte]

theorem takeByte_ok {t : Tag} {args : List Byte} {k : Byte → List Byte → Except DecodeError Instr} {i : Instr}
    (h : takeByte t args k = .ok i) : ∃ b r, args = b :: r ∧ k b r = .ok i := by
  unfold takeByte at h
  split at h
  · exact ⟨_, _, rfl, h⟩
  · cases h

theorem takeWord_ok {t : Tag} {args : List Byte} {k : Word → List Byte → Except DecodeError Instr} {i : Instr}
    (h : takeWord t args k = .ok i) : ∃ v r, args = bytes16 v ++ r ∧ k v r = .ok i := by
  unfold takeWord at h
  split at h
  · rename_i a b r
    exact ⟨le16 a b, r, by rw [bytes16_le16]; rfl, h⟩
  · cases h

theorem takeAddr_ok {t : Tag} {args : List Byte} {k : Addr → List Byte → Except DecodeError Instr} {i : Instr}
    (h : takeAddr t args k = .ok i) : ∃ v r, args = bytes24 v ++ r ∧ k v r = .ok i := by
  unfold takeAddr at h
  split at h
  · rename_i a b c r
    exact ⟨le24 a b c, r, by rw [bytes24_le24]; rfl, h⟩
  · cases h

theorem takeLong_ok {t : Tag} {args : List Byte} {k : Long → List Byte → Except DecodeError Instr} {i : Instr}
    (h : takeLong t args k = .ok i) : ∃ v r, args = bytes32 v ++ r ∧ k v r = .ok i := by
  unfold takeLong at h
  split at h
  · rename_i a b c d r
    exact ⟨le32 a b c d, r, by rw [bytes32_le32]; rfl, h⟩
  · cases h

theorem takeOffset_ok {t : Tag} {args : List Byte} {k : BitVec 5 → List Byte → Except DecodeError Instr} {i : Instr}
    (h : takeOffset t args k = .ok i) : ∃ off r, args = offByte off :: r ∧ k off r = .ok i := by
  unfold takeOffset at h
  split at h
  · rename_i b r
    split at h
    · rename_i hb
      exact ⟨b.setWidth 5, r, by rw [offByte_setWidth b hb], h⟩
    · cases h
  · cases h

theorem atEnd_ok {t : Tag} {args : List Byte} {x : Except DecodeError Instr} {i : Instr} (h : atEnd t args x = .ok i) :
    args = [] ∧ x = .ok i := by
  unfold atEnd at h
  split at h
  · exact ⟨rfl, h⟩
  · cases h

/-- The fields of R141's word. -/
theorem regWriteWord_fields (x : BitVec 1) (r : BitVec 5) (v : Byte) :
    (regWriteWord x r v).extractLsb' 14 2 = 0b10 ∧ (regWriteWord x r v).extractLsb' 13 1 = x ∧
      (regWriteWord x r v).extractLsb' 8 5 = r ∧ (regWriteWord x r v).extractLsb' 0 8 = v := by
  unfold regWriteWord
  refine ⟨?_, ?_, ?_, ?_⟩
  · rw [extract_append_high (n := 14) (k := 0), extract_all]; rfl
  · rw [extract_append_of_le _ _ (by decide), extract_append_high (n := 13) (k := 0), extract_all]
  · rw [extract_append_of_le _ _ (by decide), extract_append_of_le _ _ (by decide),
      extract_append_high (n := 8) (k := 0), extract_all]
  · rw [extract_append_of_le _ _ (by decide), extract_append_of_le _ _ (by decide), extract_append_low]

/-- The fields of R142's word. -/
theorem cmd1Word_fields (cd10 : BitVec 2) (a : BitVec 14) :
    (cmd1Word cd10 a).extractLsb' 14 2 = cd10 ∧ (cmd1Word cd10 a).extractLsb' 0 14 = a := by
  unfold cmd1Word
  exact ⟨by rw [extract_append_high (n := 14) (k := 0), extract_all], extract_append_low _ _⟩

/-- The fields of R143's word. -/
theorem cmd2Word_fields (x : Byte) (cd52 : BitVec 4) (y a : BitVec 2) :
    (cmd2Word x cd52 y a).extractLsb' 8 8 = x ∧ (cmd2Word x cd52 y a).extractLsb' 4 4 = cd52 ∧
      (cmd2Word x cd52 y a).extractLsb' 2 2 = y ∧ (cmd2Word x cd52 y a).extractLsb' 0 2 = a := by
  unfold cmd2Word
  refine ⟨?_, ?_, ?_, ?_⟩
  · rw [extract_append_high (n := 8) (k := 0), extract_all]
  · rw [extract_append_of_le _ _ (by decide), extract_append_high (n := 4) (k := 0), extract_all]
  · rw [extract_append_of_le _ _ (by decide), extract_append_of_le _ _ (by decide),
      extract_append_high (n := 2) (k := 0), extract_all]
  · rw [extract_append_of_le _ _ (by decide), extract_append_of_le _ _ (by decide), extract_append_low]

/-! ### The address table -/

/-- Every mask of R148 keeps the bits from some `k` on: what a row's match says of the address as a number. -/
theorem masked_eq (k : Nat) (a m p : Addr) (hm : m = BitVec.allOnes 24 <<< k) :
    (a &&& m == p) = decide (a.toNat / 2 ^ k * 2 ^ k = p.toNat) := by
  have h : a &&& m = a >>> k <<< k := by
    subst hm
    ext i hi
    simp only [BitVec.getElem_and, BitVec.getElem_shiftLeft, BitVec.getElem_ushiftRight, BitVec.getElem_allOnes]
    by_cases hk : i < k
    · simp [hk]
    · simp [hk, BitVec.getLsbD_eq_getElem hi, show k + (i - k) = i by omega]
  have hle : a.toNat / 2 ^ k * 2 ^ k ≤ a.toNat := Nat.div_mul_le_self _ _
  have hv : (a &&& m).toNat = a.toNat / 2 ^ k * 2 ^ k := by
    have := a.isLt
    rw [h, BitVec.toNat_shiftLeft, BitVec.toNat_ushiftRight, Nat.shiftLeft_eq, Nat.shiftRight_eq_div_pow,
      Nat.mod_eq_of_lt (by omega)]
  rw [Bool.eq_iff_iff, beq_iff_eq, decide_eq_true_iff, ← hv, BitVec.toNat_inj]

/-- The first match of a table, one row at a time. -/
theorem find_row (p : AddrPattern → Bool) (x : AddrPattern) (t : List AddrPattern) (d : AddrRow) :
    (((x :: t).find? p).map AddrPattern.row).getD d =
      if p x = true then x.row else ((t.find? p).map AddrPattern.row).getD d := by
  rw [List.find?_cons]
  cases p x <;> rfl

theorem addrRow_eq_find (a : Addr) :
    addrRow a = ((addrTable.find? (fun p => a &&& p.mask == p.pat)).map AddrPattern.row).getD .unmapped3 := by
  unfold addrRow
  cases addrTable.find? _ <;> rfl

/-- R148's first match, as a chain of comparisons. -/
theorem addrRow_eq (a : Addr) : addrRow a =
    if a.toNat / 0x400000 * 0x400000 = 0x000000 then .rom
    else if a.toNat / 0x400000 * 0x400000 = 0x400000 then .rommirror
    else if a.toNat / 0x200000 * 0x200000 = 0x800000 then .rommirror2
    else if a.toNat / 0x4000 * 0x4000 = 0xA00000 then .soundram
    else if a.toNat / 0x2000 * 0x2000 = 0xA04000 then .synth
    else if a.toNat / 0x100 * 0x100 = 0xA06000 then .soundbank
    else if a.toNat / 0x100 * 0x100 = 0xA07F00 then .soundvdp
    else if a.toNat / 0x2000 * 0x2000 = 0xA06000 then .unmapped
    else if a.toNat / 0x8000 * 0x8000 = 0xA08000 then .soundromview
    else if a.toNat / 0x20 * 0x20 = 0xA10000 then .io
    else if a.toNat / 0x100 * 0x100 = 0xA11100 then .busreq
    else if a.toNat / 0x100 * 0x100 = 0xA11200 then .soundreset
    else if a.toNat / 0x10000 * 0x10000 = 0xA10000 then .unmapped2
    else if a.toNat / 0x200000 * 0x200000 = 0xC00000 then .vdp
    else if a.toNat / 0x200000 * 0x200000 = 0xE00000 then .ram
    else .unmapped3 := by
  rw [addrRow_eq_find]
  unfold addrTable
  rw [find_row, find_row, find_row, find_row, find_row, find_row, find_row, find_row, find_row, find_row, find_row,
    find_row, find_row, find_row, find_row]
  rw [masked_eq 22 a 0xC00000 _ (by decide), masked_eq 22 a 0xC00000 _ (by decide),
    masked_eq 21 a 0xE00000 _ (by decide), masked_eq 14 a 0xFFC000 _ (by decide), masked_eq 13 a 0xFFE000 _ (by decide),
    masked_eq 8 a 0xFFFF00 _ (by decide), masked_eq 8 a 0xFFFF00 _ (by decide), masked_eq 13 a 0xFFE000 _ (by decide),
    masked_eq 15 a 0xFF8000 _ (by decide), masked_eq 5 a 0xFFFFE0 _ (by decide), masked_eq 8 a 0xFFFF00 _ (by decide),
    masked_eq 8 a 0xFFFF00 _ (by decide), masked_eq 16 a 0xFF0000 _ (by decide), masked_eq 21 a 0xE00000 _ (by decide),
    masked_eq 21 a 0xE00000 _ (by decide)]
  rw [find_row, List.find?_nil]
  simp only [decide_eq_true_eq, Option.map_none, Option.getD_none, ite_self]
  rfl

/-- The rows of R148 give the regions of R200. -/
theorem classify_eq_region (a : Addr) : classify a.toNat = (addrRow a).region := by
  have := a.isLt
  rw [addrRow_eq]
  generalize a.toNat = n at *
  generalize hc : classify n = c
  repeat' refine iteInduction (motive := fun r => c = AddrRow.region r) (fun _ => ?_) (fun _ => ?_)
  all_goals
    rw [← hc]
    unfold classify
    dsimp only
    rw [Nat.mod_eq_of_lt (by omega)]
    repeat (first | rw [if_pos (by omega)] | rw [if_neg (by omega)])
    rfl

end Sys2Proof.Laws
end

