-- ==== Sys2Proof/Laws/Memory.lean ====
section
/-! SUPPORT. What the byte memories of Machine/Ops.lean do: a read after a write, the canonical form, the bytes of a loaded
image, and that two memories in canonical form which read alike are equal. -/

namespace Sys2Proof.Laws

open Sys2Proof.Machine

/-! ### Reads -/

@[simp] theorem read_nil (k : Nat) : Memory.read [] k = 0 := rfl

theorem read_cons (j : Nat) (b : Byte) (t : Memory) (k : Nat) :
    Memory.read ((j, b) :: t) k = if j = k then b else Memory.read t k := rfl

theorem read_erase (m : Memory) (k j : Nat) : (m.erase k).read j = if j = k then 0 else m.read j := by
  induction m with
  | nil => simp [Memory.erase]
  | cons c t ih =>
    obtain ⟨i, b⟩ := c
    simp only [Memory.erase]
    by_cases h : i = k
    · rw [if_pos h, ih, read_cons]
      by_cases hj : j = k
      · simp [hj]
      · rw [if_neg hj, if_neg hj, if_neg (by omega)]
    · rw [if_neg h, read_cons, ih, read_cons]
      by_cases hi : i = j
      · rw [if_pos hi, if_pos hi, if_neg (by omega)]
      · simp [hi]

theorem erase_absent (m : Memory) (k : Nat) : ∀ c ∈ m.erase k, c.1 ≠ k := by
  induction m with
  | nil => simp [Memory.erase]
  | cons c t ih =>
    obtain ⟨i, b⟩ := c
    simp only [Memory.erase]
    by_cases h : i = k
    · rwa [if_pos h]
    · rw [if_neg h]
      simpa [h] using ih

theorem read_insert (m : Memory) (k j : Nat) (b : Byte) (h : ∀ c ∈ m, c.1 ≠ k) :
    (m.insert k b).read j = if j = k then b else m.read j := by
  induction m with
  | nil => simp only [Memory.insert, read_cons, read_nil, eq_comm]
  | cons c t ih =>
    obtain ⟨i, d⟩ := c
    have hi : i ≠ k := h (i, d) (by simp)
    have ht := ih fun c hc => h c (by simp [hc])
    simp only [Memory.insert]
    by_cases hk : k < i
    · rw [if_pos hk, read_cons]
      by_cases hj : j = k
      · simp [hj]
      · rw [if_neg hj, if_neg (by omega)]
    · rw [if_neg hk, read_cons, read_cons, ht]
      by_cases hj : i = j
      · rw [if_pos hj, if_pos hj, if_neg (by omega)]
      · simp [hj]

/-- A read after a write: the written byte there, the old byte elsewhere. -/
theorem read_write (m : Memory) (k j : Nat) (b : Byte) :
    (m.write k b).read j = if j = k then b else m.read j := by
  unfold Memory.write
  by_cases h : b = 0
  · rw [if_pos h, read_erase, h]
  · rw [if_neg h, read_insert _ _ _ _ (erase_absent m k), read_erase]
    by_cases hj : j = k <;> simp [hj]

@[simp] theorem read_write_self (m : Memory) (k : Nat) (b : Byte) : (m.write k b).read k = b := by simp [read_write]

theorem read_write_of_ne (m : Memory) {k j : Nat} (b : Byte) (h : j ≠ k) : (m.write k b).read j = m.read j := by
  simp [read_write, h]

/-- The bytes of a loaded image. -/
theorem read_ofBytes (bs : List Byte) (k j : Nat) :
    (Memory.ofBytes k bs).read j = if k ≤ j then bs.getD (j - k) 0 else 0 := by
  induction bs generalizing k with
  | nil => simp [Memory.ofBytes]
  | cons b t ih =>
    have tail : (Memory.ofBytes (k + 1) t).read j = if k + 1 ≤ j then t.getD (j - (k + 1)) 0 else 0 := ih (k + 1)
    simp only [Memory.ofBytes]
    by_cases hj : j = k
    · subst hj
      by_cases hb : b = 0
      · rw [if_pos hb, tail]; simp [hb]
      · rw [if_neg hb, read_cons]; simp
    · have hd : (if k ≤ j then (b :: t).getD (j - k) 0 else 0) = if k + 1 ≤ j then t.getD (j - (k + 1)) 0 else 0 := by
        by_cases hk : k + 1 ≤ j
        · rw [if_pos hk, if_pos (by omega), show j - k = j - (k + 1) + 1 by omega]; simp
        · rw [if_neg hk, if_neg (by omega)]
      rw [hd, ← tail]
      by_cases hb : b = 0
      · rw [if_pos hb]
      · rw [if_neg hb, read_cons, if_neg (by omega)]

/-! ### The canonical form -/

theorem wfFrom_cons (lo hi k : Nat) (b : Byte) (t : Memory) :
    Memory.wfFrom lo hi ((k, b) :: t) = true ↔ lo ≤ k ∧ k < hi ∧ b ≠ 0 ∧ Memory.wfFrom (k + 1) hi t = true := by
  simp [Memory.wfFrom, and_assoc]

theorem wfFrom_mono {lo lo' hi : Nat} {m : Memory} (h : Memory.wfFrom lo hi m = true) (hl : lo' ≤ lo) :
    Memory.wfFrom lo' hi m = true := by
  cases m with
  | nil => rfl
  | cons c t =>
    rw [wfFrom_cons] at h ⊢
    exact ⟨by omega, h.2⟩

theorem wfFrom_erase {lo hi : Nat} {m : Memory} (h : Memory.wfFrom lo hi m = true) (k : Nat) :
    Memory.wfFrom lo hi (m.erase k) = true := by
  induction m generalizing lo with
  | nil => rfl
  | cons c t ih =>
    obtain ⟨i, b⟩ := c
    rw [wfFrom_cons] at h
    simp only [Memory.erase]
    by_cases hi : i = k
    · rw [if_pos hi]; exact wfFrom_mono (ih h.2.2.2) (by omega)
    · rw [if_neg hi, wfFrom_cons]; exact ⟨h.1, h.2.1, h.2.2.1, ih h.2.2.2⟩

theorem wfFrom_insert {lo hi : Nat} {m : Memory} {k : Nat} {b : Byte} (h : Memory.wfFrom lo hi m = true)
    (ha : ∀ c ∈ m, c.1 ≠ k) (hl : lo ≤ k) (hk : k < hi) (hb : b ≠ 0) : Memory.wfFrom lo hi (m.insert k b) = true := by
  induction m generalizing lo with
  | nil => simp only [Memory.insert, wfFrom_cons]; exact ⟨hl, hk, hb, rfl⟩
  | cons c t ih =>
    obtain ⟨i, d⟩ := c
    have hi : i ≠ k := ha (i, d) (by simp)
    rw [wfFrom_cons] at h
    simp only [Memory.insert]
    by_cases hki : k < i
    · rw [if_pos hki, wfFrom_cons, wfFrom_cons]
      exact ⟨hl, hk, hb, by omega, h.2⟩
    · rw [if_neg hki, wfFrom_cons]
      exact ⟨h.1, h.2.1, h.2.2.1, ih h.2.2.2 (fun c hc => ha c (by simp [hc])) (by omega)⟩

/-- A write below the memory's size keeps the canonical form. -/
theorem wf_write {size : Nat} {m : Memory} (h : Memory.wf size m = true) {k : Nat} (hk : k < size) (b : Byte) :
    Memory.wf size (m.write k b) = true := by
  unfold Memory.wf Memory.write at *
  by_cases hb : b = 0
  · rw [if_pos hb]; exact wfFrom_erase h k
  · rw [if_neg hb]; exact wfFrom_insert (wfFrom_erase h k) (erase_absent m k) (Nat.zero_le k) hk hb

@[simp] theorem wf_nil (size : Nat) : Memory.wf size [] = true := rfl

theorem wfFrom_ofBytes (bs : List Byte) (k hi : Nat) (h : k + bs.length ≤ hi) :
    Memory.wfFrom k hi (Memory.ofBytes k bs) = true := by
  induction bs generalizing k with
  | nil => rfl
  | cons b t ih =>
    rw [List.length_cons] at h
    have ht := ih (k + 1) (by omega)
    simp only [Memory.ofBytes]
    by_cases hb : b = 0
    · rw [if_pos hb]; exact wfFrom_mono ht (by omega)
    · rw [if_neg hb, wfFrom_cons]; exact ⟨le_refl k, by omega, hb, ht⟩

/-- A loaded image is in canonical form. -/
theorem wf_ofBytes (bs : List Byte) : Memory.wf bs.length (Memory.ofBytes 0 bs) = true :=
  wfFrom_ofBytes bs 0 bs.length (by omega)

theorem read_of_wfFrom_lt {lo hi : Nat} {m : Memory} (h : Memory.wfFrom lo hi m = true) {k : Nat} (hk : k < lo) :
    m.read k = 0 := by
  induction m generalizing lo with
  | nil => rfl
  | cons c t ih =>
    obtain ⟨i, b⟩ := c
    rw [wfFrom_cons] at h
    rw [read_cons, if_neg (by omega)]
    exact ih h.2.2.2 (by omega)

/-- Equal memories are equal data: two canonical memories that read alike are the same list. -/
theorem eq_of_read_eq {lo hi lo' hi' : Nat} {m n : Memory} (hm : Memory.wfFrom lo hi m = true)
    (hn : Memory.wfFrom lo' hi' n = true) (h : ∀ k, m.read k = n.read k) : m = n := by
  induction m generalizing lo lo' n with
  | nil =>
    cases n with
    | nil => rfl
    | cons d u =>
      obtain ⟨j, e⟩ := d
      rw [wfFrom_cons] at hn
      exact absurd (by simpa [read_cons] using (h j).symm) hn.2.2.1
  | cons c t ih =>
    obtain ⟨i, b⟩ := c
    rw [wfFrom_cons] at hm
    cases n with
    | nil => exact absurd (by simpa [read_cons] using h i) hm.2.2.1
    | cons d u =>
      obtain ⟨j, e⟩ := d
      rw [wfFrom_cons] at hn
      have hij : i = j := by
        by_contra hne
        rcases Nat.lt_or_gt_of_ne hne with hlt | hlt
        · have := h i
          rw [read_cons, read_cons, if_pos rfl, if_neg (by omega), read_of_wfFrom_lt hn.2.2.2 (by omega)] at this
          exact hm.2.2.1 this
        · have := h j
          rw [read_cons, read_cons, if_neg (by omega), if_pos rfl, read_of_wfFrom_lt hm.2.2.2 (by omega)] at this
          exact hn.2.2.1 this.symm
      subst hij
      have hbe : b = e := by simpa [read_cons] using h i
      subst hbe
      have : t = u := by
        refine ih hm.2.2.2 hn.2.2.2 fun k => ?_
        by_cases hk : i = k
        · subst hk
          rw [read_of_wfFrom_lt hm.2.2.2 (by omega), read_of_wfFrom_lt hn.2.2.2 (by omega)]
        · have := h k
          rwa [read_cons, read_cons, if_neg hk, if_neg hk] at this
      rw [this]

/-- Outside its size a canonical memory reads 0. -/
theorem read_of_wfFrom_ge {lo hi : Nat} {m : Memory} (h : Memory.wfFrom lo hi m = true) {k : Nat} (hk : hi ≤ k) :
    m.read k = 0 := by
  induction m generalizing lo with
  | nil => rfl
  | cons c t ih =>
    obtain ⟨i, b⟩ := c
    rw [wfFrom_cons] at h
    rw [read_cons, if_neg (by omega)]
    exact ih h.2.2.2

end Sys2Proof.Laws
end

