-- ==== Sys2Proof/Laws/State.lean ====
section
/-! SUPPORT. One lemma per field for each named update of the state and of its parts, true by `rfl`, so that no later proof
unfolds a record update. -/

namespace Sys2Proof.Laws

open Sys2Proof.Machine


/-! ### Replies -/

@[simp] theorem replied_cfg (s : State) (r : Reply) : (s.replied r).cfg = s.cfg := rfl
@[simp] theorem replied_bus (s : State) (r : Reply) : (s.replied r).bus = s.bus := rfl
@[simp] theorem replied_vdp (s : State) (r : Reply) : (s.replied r).vdp = s.vdp := rfl
@[simp] theorem replied_sched (s : State) (r : Reply) : (s.replied r).sched = s.sched := rfl
@[simp] theorem replied_fb (s : State) (r : Reply) : (s.replied r).fb = s.fb := rfl
@[simp] theorem replied_inbox (s : State) (r : Reply) : (s.replied r).env.inbox = s.env.inbox := rfl
@[simp] theorem replied_cpuScript (s : State) (r : Reply) : (s.replied r).env.cpuScript = s.env.cpuScript := rfl
@[simp] theorem replied_soundScript (s : State) (r : Reply) : (s.replied r).env.soundScript = s.env.soundScript := rfl
@[simp] theorem replied_draws (s : State) (r : Reply) : (s.replied r).env.draws = s.env.draws := rfl
@[simp] theorem replied_reply (s : State) (r : Reply) : (s.replied r).env.reply = r := rfl
@[simp] theorem replied_events (s : State) (r : Reply) : (s.replied r).env.events = s.env.events := rfl

/-! ### Calls -/

@[simp] theorem call_cfg (s : State) (e : Event) : (s.call e).cfg = s.cfg := rfl
@[simp] theorem call_bus (s : State) (e : Event) : (s.call e).bus = s.bus := rfl
@[simp] theorem call_vdp (s : State) (e : Event) : (s.call e).vdp = s.vdp := rfl
@[simp] theorem call_sched (s : State) (e : Event) : (s.call e).sched = s.sched := rfl
@[simp] theorem call_fb (s : State) (e : Event) : (s.call e).fb = s.fb := rfl
@[simp] theorem call_inbox (s : State) (e : Event) : (s.call e).env.inbox = s.env.inbox := rfl
@[simp] theorem call_cpuScript (s : State) (e : Event) : (s.call e).env.cpuScript = s.env.cpuScript := rfl
@[simp] theorem call_soundScript (s : State) (e : Event) : (s.call e).env.soundScript = s.env.soundScript := rfl
@[simp] theorem call_draws (s : State) (e : Event) : (s.call e).env.draws = s.env.draws := rfl
@[simp] theorem call_reply (s : State) (e : Event) : (s.call e).env.reply = s.env.reply := rfl
@[simp] theorem call_events (s : State) (e : Event) : (s.call e).env.events = e :: s.env.events := rfl

/-! ### Interrupts -/

@[simp] theorem assertInterrupt_cfg (s : State) (n : Nat) : (s.assertInterrupt n).cfg = s.cfg := rfl
@[simp] theorem assertInterrupt_bus (s : State) (n : Nat) : (s.assertInterrupt n).bus = s.bus := rfl
@[simp] theorem assertInterrupt_vdp (s : State) (n : Nat) : (s.assertInterrupt n).vdp = s.vdp := rfl
@[simp] theorem assertInterrupt_sched (s : State) (n : Nat) : (s.assertInterrupt n).sched = s.sched := rfl
@[simp] theorem assertInterrupt_fb (s : State) (n : Nat) : (s.assertInterrupt n).fb = s.fb := rfl
@[simp] theorem assertInterrupt_inbox (s : State) (n : Nat) : (s.assertInterrupt n).env.inbox = s.env.inbox := rfl
@[simp] theorem assertInterrupt_cpuScript (s : State) (n : Nat) :
    (s.assertInterrupt n).env.cpuScript = s.env.cpuScript := rfl
@[simp] theorem assertInterrupt_soundScript (s : State) (n : Nat) :
    (s.assertInterrupt n).env.soundScript = s.env.soundScript := rfl
@[simp] theorem assertInterrupt_draws (s : State) (n : Nat) : (s.assertInterrupt n).env.draws = s.env.draws := rfl
@[simp] theorem assertInterrupt_reply (s : State) (n : Nat) : (s.assertInterrupt n).env.reply = s.env.reply := rfl
@[simp] theorem assertInterrupt_events (s : State) (n : Nat) :
    (s.assertInterrupt n).env.events = .assertInterrupt n :: s.env.events := rfl

/-! ### Draws -/

@[simp] theorem draw_cfg (s : State) (w : Nat) : ((s.draw w).2).cfg = s.cfg := rfl
@[simp] theorem draw_bus (s : State) (w : Nat) : ((s.draw w).2).bus = s.bus := rfl
@[simp] theorem draw_vdp (s : State) (w : Nat) : ((s.draw w).2).vdp = s.vdp := rfl
@[simp] theorem draw_sched (s : State) (w : Nat) : ((s.draw w).2).sched = s.sched := rfl
@[simp] theorem draw_fb (s : State) (w : Nat) : ((s.draw w).2).fb = s.fb := rfl
@[simp] theorem draw_inbox (s : State) (w : Nat) : ((s.draw w).2).env.inbox = s.env.inbox := rfl
@[simp] theorem draw_cpuScript (s : State) (w : Nat) : ((s.draw w).2).env.cpuScript = s.env.cpuScript := rfl
@[simp] theorem draw_soundScript (s : State) (w : Nat) : ((s.draw w).2).env.soundScript = s.env.soundScript := rfl
@[simp] theorem draw_draws (s : State) (w : Nat) : ((s.draw w).2).env.draws = s.env.draws + 1 := rfl
@[simp] theorem draw_reply (s : State) (w : Nat) : ((s.draw w).2).env.reply = s.env.reply := rfl
@[simp] theorem draw_events (s : State) (w : Nat) : ((s.draw w).2).env.events = s.env.events := rfl
@[simp] theorem draw_value (s : State) (w : Nat) : (s.draw w).1 = Config.freeBits w s.env.draws := rfl

/-! ### Requests -/

@[simp] theorem dequeued_cfg (s : State) : (s.dequeued).cfg = s.cfg := rfl
@[simp] theorem dequeued_bus (s : State) : (s.dequeued).bus = s.bus := rfl
@[simp] theorem dequeued_vdp (s : State) : (s.dequeued).vdp = s.vdp := rfl
@[simp] theorem dequeued_sched (s : State) : (s.dequeued).sched = s.sched := rfl
@[simp] theorem dequeued_fb (s : State) : (s.dequeued).fb = s.fb := rfl
@[simp] theorem dequeued_inbox (s : State) : (s.dequeued).env.inbox = s.env.inbox.tail := rfl
@[simp] theorem dequeued_cpuScript (s : State) : (s.dequeued).env.cpuScript = s.env.cpuScript := rfl
@[simp] theorem dequeued_soundScript (s : State) : (s.dequeued).env.soundScript = s.env.soundScript := rfl
@[simp] theorem dequeued_draws (s : State) : (s.dequeued).env.draws = s.env.draws := rfl
@[simp] theorem dequeued_reply (s : State) : (s.dequeued).env.reply = s.env.reply := rfl
@[simp] theorem dequeued_events (s : State) : (s.dequeued).env.events = s.env.events := rfl

/-! ### Placed requests -/

@[simp] theorem withRequest_cfg (s : State) (q : Request) : (s.withRequest q).cfg = s.cfg := rfl
@[simp] theorem withRequest_bus (s : State) (q : Request) : (s.withRequest q).bus = s.bus := rfl
@[simp] theorem withRequest_vdp (s : State) (q : Request) : (s.withRequest q).vdp = s.vdp := rfl
@[simp] theorem withRequest_sched (s : State) (q : Request) : (s.withRequest q).sched = s.sched := rfl
@[simp] theorem withRequest_fb (s : State) (q : Request) : (s.withRequest q).fb = s.fb := rfl
@[simp] theorem withRequest_inbox (s : State) (q : Request) : (s.withRequest q).env.inbox = q :: s.env.inbox := rfl
@[simp] theorem withRequest_cpuScript (s : State) (q : Request) :
    (s.withRequest q).env.cpuScript = s.env.cpuScript := rfl
@[simp] theorem withRequest_soundScript (s : State) (q : Request) :
    (s.withRequest q).env.soundScript = s.env.soundScript := rfl
@[simp] theorem withRequest_draws (s : State) (q : Request) : (s.withRequest q).env.draws = s.env.draws := rfl
@[simp] theorem withRequest_reply (s : State) (q : Request) : (s.withRequest q).env.reply = s.env.reply := rfl
@[simp] theorem withRequest_events (s : State) (q : Request) : (s.withRequest q).env.events = s.env.events := rfl

/-! ### A register write -/

@[simp] theorem setR_reg (v : VdpState) (i : Fin 32) (b : Byte) : (v.setR i b).reg = v.reg.set i.val b i.isLt := rfl
@[simp] theorem setR_vram (v : VdpState) (i : Fin 32) (b : Byte) : (v.setR i b).vram = v.vram := rfl
@[simp] theorem setR_cram (v : VdpState) (i : Fin 32) (b : Byte) : (v.setR i b).cram = v.cram := rfl
@[simp] theorem setR_vsram (v : VdpState) (i : Fin 32) (b : Byte) : (v.setR i b).vsram = v.vsram := rfl
@[simp] theorem setR_satCache (v : VdpState) (i : Fin 32) (b : Byte) : (v.setR i b).satCache = v.satCache := rfl
@[simp] theorem setR_fifo (v : VdpState) (i : Fin 32) (b : Byte) : (v.setR i b).fifo = v.fifo := rfl
@[simp] theorem setR_pending (v : VdpState) (i : Fin 32) (b : Byte) : (v.setR i b).pending = v.pending := rfl
@[simp] theorem setR_code (v : VdpState) (i : Fin 32) (b : Byte) : (v.setR i b).code = v.code := rfl
@[simp] theorem setR_addr (v : VdpState) (i : Fin 32) (b : Byte) : (v.setR i b).addr = v.addr := rfl
@[simp] theorem setR_fillPending (v : VdpState) (i : Fin 32) (b : Byte) :
    (v.setR i b).fillPending = v.fillPending := rfl
@[simp] theorem setR_hvLatchValue (v : VdpState) (i : Fin 32) (b : Byte) :
    (v.setR i b).hvLatchValue = v.hvLatchValue := rfl

/-! ### A VRAM byte write -/

@[simp] theorem vramWrite_reg (v : VdpState) (x : Word) (b : Byte) : (v.vramWrite x b).reg = v.reg := rfl
@[simp] theorem vramWrite_vram (v : VdpState) (x : Word) (b : Byte) :
    (v.vramWrite x b).vram = v.vram.write x.toNat b := rfl
@[simp] theorem vramWrite_cram (v : VdpState) (x : Word) (b : Byte) : (v.vramWrite x b).cram = v.cram := rfl
@[simp] theorem vramWrite_vsram (v : VdpState) (x : Word) (b : Byte) : (v.vramWrite x b).vsram = v.vsram := rfl
@[simp] theorem vramWrite_fifo (v : VdpState) (x : Word) (b : Byte) : (v.vramWrite x b).fifo = v.fifo := rfl
@[simp] theorem vramWrite_pending (v : VdpState) (x : Word) (b : Byte) : (v.vramWrite x b).pending = v.pending := rfl
@[simp] theorem vramWrite_code (v : VdpState) (x : Word) (b : Byte) : (v.vramWrite x b).code = v.code := rfl
@[simp] theorem vramWrite_addr (v : VdpState) (x : Word) (b : Byte) : (v.vramWrite x b).addr = v.addr := rfl
@[simp] theorem vramWrite_fillPending (v : VdpState) (x : Word) (b : Byte) :
    (v.vramWrite x b).fillPending = v.fillPending := rfl
@[simp] theorem vramWrite_hvLatchValue (v : VdpState) (x : Word) (b : Byte) :
    (v.vramWrite x b).hvLatchValue = v.hvLatchValue := rfl

/-! ### A VRAM pair write -/

@[simp] theorem vramWritePair_reg (v : VdpState) (a w : Word) : (v.vramWritePair a w).reg = v.reg := rfl
@[simp] theorem vramWritePair_vram (v : VdpState) (a w : Word) :
    (v.vramWritePair a w).vram = (v.vram.write a.toNat (hiByte w)).write (a ^^^ 1).toNat (loByte w) := rfl
@[simp] theorem vramWritePair_cram (v : VdpState) (a w : Word) : (v.vramWritePair a w).cram = v.cram := rfl
@[simp] theorem vramWritePair_vsram (v : VdpState) (a w : Word) : (v.vramWritePair a w).vsram = v.vsram := rfl
@[simp] theorem vramWritePair_fifo (v : VdpState) (a w : Word) : (v.vramWritePair a w).fifo = v.fifo := rfl
@[simp] theorem vramWritePair_pending (v : VdpState) (a w : Word) : (v.vramWritePair a w).pending = v.pending := rfl
@[simp] theorem vramWritePair_code (v : VdpState) (a w : Word) : (v.vramWritePair a w).code = v.code := rfl
@[simp] theorem vramWritePair_addr (v : VdpState) (a w : Word) : (v.vramWritePair a w).addr = v.addr := rfl
@[simp] theorem vramWritePair_fillPending (v : VdpState) (a w : Word) :
    (v.vramWritePair a w).fillPending = v.fillPending := rfl
@[simp] theorem vramWritePair_hvLatchValue (v : VdpState) (a w : Word) :
    (v.vramWritePair a w).hvLatchValue = v.hvLatchValue := rfl

/-! ### A CRAM store -/

@[simp] theorem cramStore_reg (v : VdpState) (i : BitVec 6) (w : Word) : (v.cramStore i w).reg = v.reg := rfl
@[simp] theorem cramStore_vram (v : VdpState) (i : BitVec 6) (w : Word) : (v.cramStore i w).vram = v.vram := rfl
@[simp] theorem cramStore_cram (v : VdpState) (i : BitVec 6) (w : Word) :
    (v.cramStore i w).cram = v.cram.set i.toNat w i.isLt := rfl
@[simp] theorem cramStore_vsram (v : VdpState) (i : BitVec 6) (w : Word) : (v.cramStore i w).vsram = v.vsram := rfl
@[simp] theorem cramStore_satCache (v : VdpState) (i : BitVec 6) (w : Word) :
    (v.cramStore i w).satCache = v.satCache := rfl
@[simp] theorem cramStore_fifo (v : VdpState) (i : BitVec 6) (w : Word) : (v.cramStore i w).fifo = v.fifo := rfl
@[simp] theorem cramStore_pending (v : VdpState) (i : BitVec 6) (w : Word) :
    (v.cramStore i w).pending = v.pending := rfl
@[simp] theorem cramStore_code (v : VdpState) (i : BitVec 6) (w : Word) : (v.cramStore i w).code = v.code := rfl
@[simp] theorem cramStore_addr (v : VdpState) (i : BitVec 6) (w : Word) : (v.cramStore i w).addr = v.addr := rfl
@[simp] theorem cramStore_fillPending (v : VdpState) (i : BitVec 6) (w : Word) :
    (v.cramStore i w).fillPending = v.fillPending := rfl
@[simp] theorem cramStore_hvLatchValue (v : VdpState) (i : BitVec 6) (w : Word) :
    (v.cramStore i w).hvLatchValue = v.hvLatchValue := rfl

/-! ### A VSRAM store -/

@[simp] theorem vsramStore_reg (v : VdpState) (i : BitVec 6) (w : Word) : (v.vsramStore i w).reg = v.reg := rfl
@[simp] theorem vsramStore_vram (v : VdpState) (i : BitVec 6) (w : Word) : (v.vsramStore i w).vram = v.vram := rfl
@[simp] theorem vsramStore_cram (v : VdpState) (i : BitVec 6) (w : Word) : (v.vsramStore i w).cram = v.cram := rfl
@[simp] theorem vsramStore_vsram (v : VdpState) (i : BitVec 6) (w : Word) :
    (v.vsramStore i w).vsram = v.vsram.set i.toNat w i.isLt := rfl
@[simp] theorem vsramStore_satCache (v : VdpState) (i : BitVec 6) (w : Word) :
    (v.vsramStore i w).satCache = v.satCache := rfl
@[simp] theorem vsramStore_fifo (v : VdpState) (i : BitVec 6) (w : Word) : (v.vsramStore i w).fifo = v.fifo := rfl
@[simp] theorem vsramStore_pending (v : VdpState) (i : BitVec 6) (w : Word) :
    (v.vsramStore i w).pending = v.pending := rfl
@[simp] theorem vsramStore_code (v : VdpState) (i : BitVec 6) (w : Word) : (v.vsramStore i w).code = v.code := rfl
@[simp] theorem vsramStore_addr (v : VdpState) (i : BitVec 6) (w : Word) : (v.vsramStore i w).addr = v.addr := rfl
@[simp] theorem vsramStore_fillPending (v : VdpState) (i : BitVec 6) (w : Word) :
    (v.vsramStore i w).fillPending = v.fillPending := rfl
@[simp] theorem vsramStore_hvLatchValue (v : VdpState) (i : BitVec 6) (w : Word) :
    (v.vsramStore i w).hvLatchValue = v.hvLatchValue := rfl

/-! ### A FIFO push -/

@[simp] theorem fifoPush_reg (v : VdpState) (w : Word) : (v.fifoPush w).reg = v.reg := rfl
@[simp] theorem fifoPush_vram (v : VdpState) (w : Word) : (v.fifoPush w).vram = v.vram := rfl
@[simp] theorem fifoPush_cram (v : VdpState) (w : Word) : (v.fifoPush w).cram = v.cram := rfl
@[simp] theorem fifoPush_vsram (v : VdpState) (w : Word) : (v.fifoPush w).vsram = v.vsram := rfl
@[simp] theorem fifoPush_satCache (v : VdpState) (w : Word) : (v.fifoPush w).satCache = v.satCache := rfl
@[simp] theorem fifoPush_fifo (v : VdpState) (w : Word) :
    (v.fifoPush w).fifo = #v[w, v.fifo[0], v.fifo[1], v.fifo[2]] := rfl
@[simp] theorem fifoPush_pending (v : VdpState) (w : Word) : (v.fifoPush w).pending = v.pending := rfl
@[simp] theorem fifoPush_code (v : VdpState) (w : Word) : (v.fifoPush w).code = v.code := rfl
@[simp] theorem fifoPush_addr (v : VdpState) (w : Word) : (v.fifoPush w).addr = v.addr := rfl
@[simp] theorem fifoPush_fillPending (v : VdpState) (w : Word) : (v.fifoPush w).fillPending = v.fillPending := rfl
@[simp] theorem fifoPush_hvLatchValue (v : VdpState) (w : Word) : (v.fifoPush w).hvLatchValue = v.hvLatchValue := rfl

/-! ### An address advance -/

@[simp] theorem addrAdvance_reg (v : VdpState) : (v.addrAdvance).reg = v.reg := rfl
@[simp] theorem addrAdvance_vram (v : VdpState) : (v.addrAdvance).vram = v.vram := rfl
@[simp] theorem addrAdvance_cram (v : VdpState) : (v.addrAdvance).cram = v.cram := rfl
@[simp] theorem addrAdvance_vsram (v : VdpState) : (v.addrAdvance).vsram = v.vsram := rfl
@[simp] theorem addrAdvance_satCache (v : VdpState) : (v.addrAdvance).satCache = v.satCache := rfl
@[simp] theorem addrAdvance_fifo (v : VdpState) : (v.addrAdvance).fifo = v.fifo := rfl
@[simp] theorem addrAdvance_pending (v : VdpState) : (v.addrAdvance).pending = v.pending := rfl
@[simp] theorem addrAdvance_code (v : VdpState) : (v.addrAdvance).code = v.code := rfl
@[simp] theorem addrAdvance_addr (v : VdpState) : (v.addrAdvance).addr = v.addr + v.inc := rfl
@[simp] theorem addrAdvance_fillPending (v : VdpState) : (v.addrAdvance).fillPending = v.fillPending := rfl
@[simp] theorem addrAdvance_hvLatchValue (v : VdpState) : (v.addrAdvance).hvLatchValue = v.hvLatchValue := rfl

/-! ### A latch release -/

@[simp] theorem clearPending_reg (v : VdpState) : (v.clearPending).reg = v.reg := rfl
@[simp] theorem clearPending_vram (v : VdpState) : (v.clearPending).vram = v.vram := rfl
@[simp] theorem clearPending_cram (v : VdpState) : (v.clearPending).cram = v.cram := rfl
@[simp] theorem clearPending_vsram (v : VdpState) : (v.clearPending).vsram = v.vsram := rfl
@[simp] theorem clearPending_satCache (v : VdpState) : (v.clearPending).satCache = v.satCache := rfl
@[simp] theorem clearPending_fifo (v : VdpState) : (v.clearPending).fifo = v.fifo := rfl
@[simp] theorem clearPending_pending (v : VdpState) : (v.clearPending).pending = false := rfl
@[simp] theorem clearPending_code (v : VdpState) : (v.clearPending).code = v.code := rfl
@[simp] theorem clearPending_addr (v : VdpState) : (v.clearPending).addr = v.addr := rfl
@[simp] theorem clearPending_fillPending (v : VdpState) : (v.clearPending).fillPending = v.fillPending := rfl
@[simp] theorem clearPending_hvLatchValue (v : VdpState) : (v.clearPending).hvLatchValue = v.hvLatchValue := rfl

/-! ### A fill armed -/

@[simp] theorem fillArm_reg (v : VdpState) : (v.fillArm).reg = v.reg := rfl
@[simp] theorem fillArm_vram (v : VdpState) : (v.fillArm).vram = v.vram := rfl
@[simp] theorem fillArm_cram (v : VdpState) : (v.fillArm).cram = v.cram := rfl
@[simp] theorem fillArm_vsram (v : VdpState) : (v.fillArm).vsram = v.vsram := rfl
@[simp] theorem fillArm_satCache (v : VdpState) : (v.fillArm).satCache = v.satCache := rfl
@[simp] theorem fillArm_fifo (v : VdpState) : (v.fillArm).fifo = v.fifo := rfl
@[simp] theorem fillArm_pending (v : VdpState) : (v.fillArm).pending = v.pending := rfl
@[simp] theorem fillArm_code (v : VdpState) : (v.fillArm).code = v.code := rfl
@[simp] theorem fillArm_addr (v : VdpState) : (v.fillArm).addr = v.addr := rfl
@[simp] theorem fillArm_fillPending (v : VdpState) : (v.fillArm).fillPending = true := rfl
@[simp] theorem fillArm_hvLatchValue (v : VdpState) : (v.fillArm).hvLatchValue = v.hvLatchValue := rfl

/-! ### A latch clear -/

@[simp] theorem latchClear_reg (v : VdpState) : (v.latchClear).reg = v.reg := rfl
@[simp] theorem latchClear_vram (v : VdpState) : (v.latchClear).vram = v.vram := rfl
@[simp] theorem latchClear_cram (v : VdpState) : (v.latchClear).cram = v.cram := rfl
@[simp] theorem latchClear_vsram (v : VdpState) : (v.latchClear).vsram = v.vsram := rfl
@[simp] theorem latchClear_satCache (v : VdpState) : (v.latchClear).satCache = v.satCache := rfl
@[simp] theorem latchClear_fifo (v : VdpState) : (v.latchClear).fifo = v.fifo := rfl
@[simp] theorem latchClear_pending (v : VdpState) : (v.latchClear).pending = v.pending := rfl
@[simp] theorem latchClear_code (v : VdpState) : (v.latchClear).code = v.code &&& 0x3C := rfl
@[simp] theorem latchClear_addr (v : VdpState) : (v.latchClear).addr = v.addr &&& 0xC000 := rfl
@[simp] theorem latchClear_fillPending (v : VdpState) : (v.latchClear).fillPending = v.fillPending := rfl
@[simp] theorem latchClear_hvLatchValue (v : VdpState) : (v.latchClear).hvLatchValue = v.hvLatchValue := rfl

/-! ### A first command word -/

@[simp] theorem cmdWord1_reg (v : VdpState) (c : BitVec 2) (a : BitVec 14) : (v.cmdWord1 c a).reg = v.reg := rfl
@[simp] theorem cmdWord1_vram (v : VdpState) (c : BitVec 2) (a : BitVec 14) : (v.cmdWord1 c a).vram = v.vram := rfl
@[simp] theorem cmdWord1_cram (v : VdpState) (c : BitVec 2) (a : BitVec 14) : (v.cmdWord1 c a).cram = v.cram := rfl
@[simp] theorem cmdWord1_vsram (v : VdpState) (c : BitVec 2) (a : BitVec 14) : (v.cmdWord1 c a).vsram = v.vsram := rfl
@[simp] theorem cmdWord1_satCache (v : VdpState) (c : BitVec 2) (a : BitVec 14) :
    (v.cmdWord1 c a).satCache = v.satCache := rfl
@[simp] theorem cmdWord1_fifo (v : VdpState) (c : BitVec 2) (a : BitVec 14) : (v.cmdWord1 c a).fifo = v.fifo := rfl
@[simp] theorem cmdWord1_pending (v : VdpState) (c : BitVec 2) (a : BitVec 14) :
    (v.cmdWord1 c a).pending = true := rfl
@[simp] theorem cmdWord1_code (v : VdpState) (c : BitVec 2) (a : BitVec 14) :
    (v.cmdWord1 c a).code = v.code.extractLsb' 2 4 ++ c := rfl
@[simp] theorem cmdWord1_addr (v : VdpState) (c : BitVec 2) (a : BitVec 14) :
    (v.cmdWord1 c a).addr = v.addr.extractLsb' 14 2 ++ a := rfl
@[simp] theorem cmdWord1_fillPending (v : VdpState) (c : BitVec 2) (a : BitVec 14) :
    (v.cmdWord1 c a).fillPending = v.fillPending := rfl
@[simp] theorem cmdWord1_hvLatchValue (v : VdpState) (c : BitVec 2) (a : BitVec 14) :
    (v.cmdWord1 c a).hvLatchValue = v.hvLatchValue := rfl

/-! ### A second command word -/

@[simp] theorem cmdWord2_reg (v : VdpState) (c : BitVec 4) (a : BitVec 2) : (v.cmdWord2 c a).reg = v.reg := rfl
@[simp] theorem cmdWord2_vram (v : VdpState) (c : BitVec 4) (a : BitVec 2) : (v.cmdWord2 c a).vram = v.vram := rfl
@[simp] theorem cmdWord2_cram (v : VdpState) (c : BitVec 4) (a : BitVec 2) : (v.cmdWord2 c a).cram = v.cram := rfl
@[simp] theorem cmdWord2_vsram (v : VdpState) (c : BitVec 4) (a : BitVec 2) : (v.cmdWord2 c a).vsram = v.vsram := rfl
@[simp] theorem cmdWord2_satCache (v : VdpState) (c : BitVec 4) (a : BitVec 2) :
    (v.cmdWord2 c a).satCache = v.satCache := rfl
@[simp] theorem cmdWord2_fifo (v : VdpState) (c : BitVec 4) (a : BitVec 2) : (v.cmdWord2 c a).fifo = v.fifo := rfl
@[simp] theorem cmdWord2_pending (v : VdpState) (c : BitVec 4) (a : BitVec 2) :
    (v.cmdWord2 c a).pending = false := rfl
@[simp] theorem cmdWord2_code (v : VdpState) (c : BitVec 4) (a : BitVec 2) :
    (v.cmdWord2 c a).code = c ++ v.code.extractLsb' 0 2 := rfl
@[simp] theorem cmdWord2_addr (v : VdpState) (c : BitVec 4) (a : BitVec 2) :
    (v.cmdWord2 c a).addr = a ++ v.addr.extractLsb' 0 14 := rfl
@[simp] theorem cmdWord2_fillPending (v : VdpState) (c : BitVec 4) (a : BitVec 2) :
    (v.cmdWord2 c a).fillPending = v.fillPending := rfl
@[simp] theorem cmdWord2_hvLatchValue (v : VdpState) (c : BitVec 4) (a : BitVec 2) :
    (v.cmdWord2 c a).hvLatchValue = v.hvLatchValue := rfl

/-! ### The length zeroed -/

@[simp] theorem clearLength_reg (v : VdpState) : (v.clearLength).reg = (v.reg.set 19 0).set 20 0 := rfl
@[simp] theorem clearLength_vram (v : VdpState) : (v.clearLength).vram = v.vram := rfl
@[simp] theorem clearLength_cram (v : VdpState) : (v.clearLength).cram = v.cram := rfl
@[simp] theorem clearLength_vsram (v : VdpState) : (v.clearLength).vsram = v.vsram := rfl
@[simp] theorem clearLength_satCache (v : VdpState) : (v.clearLength).satCache = v.satCache := rfl
@[simp] theorem clearLength_fifo (v : VdpState) : (v.clearLength).fifo = v.fifo := rfl
@[simp] theorem clearLength_pending (v : VdpState) : (v.clearLength).pending = v.pending := rfl
@[simp] theorem clearLength_code (v : VdpState) : (v.clearLength).code = v.code := rfl
@[simp] theorem clearLength_addr (v : VdpState) : (v.clearLength).addr = v.addr := rfl
@[simp] theorem clearLength_fillPending (v : VdpState) : (v.clearLength).fillPending = v.fillPending := rfl
@[simp] theorem clearLength_hvLatchValue (v : VdpState) : (v.clearLength).hvLatchValue = v.hvLatchValue := rfl

/-! ### The source after a CPU copy -/

@[simp] theorem dmaPostUpdate_reg (v : VdpState) (src : Addr) :
    (v.dmaPostUpdate src).reg = (((v.reg.set 21 (src.extractLsb' 1 8)).set 22 (src.extractLsb' 9 8)).set 19 0).set 20 0 := rfl
@[simp] theorem dmaPostUpdate_vram (v : VdpState) (src : Addr) : (v.dmaPostUpdate src).vram = v.vram := rfl
@[simp] theorem dmaPostUpdate_cram (v : VdpState) (src : Addr) : (v.dmaPostUpdate src).cram = v.cram := rfl
@[simp] theorem dmaPostUpdate_vsram (v : VdpState) (src : Addr) : (v.dmaPostUpdate src).vsram = v.vsram := rfl
@[simp] theorem dmaPostUpdate_satCache (v : VdpState) (src : Addr) :
    (v.dmaPostUpdate src).satCache = v.satCache := rfl
@[simp] theorem dmaPostUpdate_fifo (v : VdpState) (src : Addr) : (v.dmaPostUpdate src).fifo = v.fifo := rfl
@[simp] theorem dmaPostUpdate_pending (v : VdpState) (src : Addr) : (v.dmaPostUpdate src).pending = v.pending := rfl
@[simp] theorem dmaPostUpdate_code (v : VdpState) (src : Addr) : (v.dmaPostUpdate src).code = v.code := rfl
@[simp] theorem dmaPostUpdate_addr (v : VdpState) (src : Addr) : (v.dmaPostUpdate src).addr = v.addr := rfl
@[simp] theorem dmaPostUpdate_fillPending (v : VdpState) (src : Addr) :
    (v.dmaPostUpdate src).fillPending = v.fillPending := rfl
@[simp] theorem dmaPostUpdate_hvLatchValue (v : VdpState) (src : Addr) :
    (v.dmaPostUpdate src).hvLatchValue = v.hvLatchValue := rfl

/-! ### A work-RAM store -/

@[simp] theorem ramStore_rom (b : BusState) (a : Addr) (v : Byte) : (b.ramStore a v).rom = b.rom := rfl
@[simp] theorem ramStore_romSize (b : BusState) (a : Addr) (v : Byte) : (b.ramStore a v).romSize = b.romSize := rfl
@[simp] theorem ramStore_wram (b : BusState) (a : Addr) (v : Byte) :
    (b.ramStore a v).wram = b.wram.write (a.toNat % 0x10000) v := rfl
@[simp] theorem ramStore_sram (b : BusState) (a : Addr) (v : Byte) : (b.ramStore a v).sram = b.sram := rfl
@[simp] theorem ramStore_bank (b : BusState) (a : Addr) (v : Byte) : (b.ramStore a v).bank = b.bank := rfl
@[simp] theorem ramStore_busReq (b : BusState) (a : Addr) (v : Byte) : (b.ramStore a v).busReq = b.busReq := rfl
@[simp] theorem ramStore_soundReset (b : BusState) (a : Addr) (v : Byte) :
    (b.ramStore a v).soundReset = b.soundReset := rfl

/-! ### A sound-RAM store -/

@[simp] theorem soundStore_rom (b : BusState) (m : Word) (a : Addr) (v : Byte) :
    (b.soundStore m a v).rom = b.rom := rfl
@[simp] theorem soundStore_romSize (b : BusState) (m : Word) (a : Addr) (v : Byte) :
    (b.soundStore m a v).romSize = b.romSize := rfl
@[simp] theorem soundStore_wram (b : BusState) (m : Word) (a : Addr) (v : Byte) :
    (b.soundStore m a v).wram = b.wram := rfl
@[simp] theorem soundStore_sram (b : BusState) (m : Word) (a : Addr) (v : Byte) :
    (b.soundStore m a v).sram = b.sram.write (soundIndex m a) v := rfl
@[simp] theorem soundStore_bank (b : BusState) (m : Word) (a : Addr) (v : Byte) :
    (b.soundStore m a v).bank = b.bank := rfl
@[simp] theorem soundStore_busReq (b : BusState) (m : Word) (a : Addr) (v : Byte) :
    (b.soundStore m a v).busReq = b.busReq := rfl
@[simp] theorem soundStore_soundReset (b : BusState) (m : Word) (a : Addr) (v : Byte) :
    (b.soundStore m a v).soundReset = b.soundReset := rfl

/-! ### VB -/

@[simp] theorem setVb_cfg (s : State) (b : Bool) : (s.setVb b).cfg = s.cfg := rfl
@[simp] theorem setVb_bus (s : State) (b : Bool) : (s.setVb b).bus = s.bus := rfl
@[simp] theorem setVb_vdp (s : State) (b : Bool) : (s.setVb b).vdp = s.vdp := rfl
@[simp] theorem setVb_fb (s : State) (b : Bool) : (s.setVb b).fb = s.fb := rfl
@[simp] theorem setVb_env (s : State) (b : Bool) : (s.setVb b).env = s.env := rfl
@[simp] theorem setVb_vb (s : State) (b : Bool) : (s.setVb b).sched.vb = b := rfl
@[simp] theorem setVb_hb (s : State) (b : Bool) : (s.setVb b).sched.hb = s.sched.hb := rfl
@[simp] theorem setVb_f (s : State) (b : Bool) : (s.setVb b).sched.f = s.sched.f := rfl
@[simp] theorem setVb_hintCounter (s : State) (b : Bool) : (s.setVb b).sched.hintCounter = s.sched.hintCounter := rfl
@[simp] theorem setVb_curLine (s : State) (b : Bool) : (s.setVb b).sched.curLine = s.sched.curLine := rfl
@[simp] theorem setVb_phase (s : State) (b : Bool) : (s.setVb b).sched.phase = s.sched.phase := rfl
@[simp] theorem setVb_frameV30 (s : State) (b : Bool) : (s.setVb b).sched.frameV30 = s.sched.frameV30 := rfl
theorem setVb_events (s : State) (b : Bool) : (s.setVb b).env.events = s.env.events := rfl

/-! ### HB -/

@[simp] theorem setHb_cfg (s : State) (b : Bool) : (s.setHb b).cfg = s.cfg := rfl
@[simp] theorem setHb_bus (s : State) (b : Bool) : (s.setHb b).bus = s.bus := rfl
@[simp] theorem setHb_vdp (s : State) (b : Bool) : (s.setHb b).vdp = s.vdp := rfl
@[simp] theorem setHb_fb (s : State) (b : Bool) : (s.setHb b).fb = s.fb := rfl
@[simp] theorem setHb_env (s : State) (b : Bool) : (s.setHb b).env = s.env := rfl
@[simp] theorem setHb_vb (s : State) (b : Bool) : (s.setHb b).sched.vb = s.sched.vb := rfl
@[simp] theorem setHb_hb (s : State) (b : Bool) : (s.setHb b).sched.hb = b := rfl
@[simp] theorem setHb_f (s : State) (b : Bool) : (s.setHb b).sched.f = s.sched.f := rfl
@[simp] theorem setHb_hintCounter (s : State) (b : Bool) : (s.setHb b).sched.hintCounter = s.sched.hintCounter := rfl
@[simp] theorem setHb_curLine (s : State) (b : Bool) : (s.setHb b).sched.curLine = s.sched.curLine := rfl
@[simp] theorem setHb_phase (s : State) (b : Bool) : (s.setHb b).sched.phase = s.sched.phase := rfl
@[simp] theorem setHb_frameV30 (s : State) (b : Bool) : (s.setHb b).sched.frameV30 = s.sched.frameV30 := rfl
theorem setHb_events (s : State) (b : Bool) : (s.setHb b).env.events = s.env.events := rfl

/-! ### F -/

@[simp] theorem setF_cfg (s : State) (b : Bool) : (s.setF b).cfg = s.cfg := rfl
@[simp] theorem setF_bus (s : State) (b : Bool) : (s.setF b).bus = s.bus := rfl
@[simp] theorem setF_vdp (s : State) (b : Bool) : (s.setF b).vdp = s.vdp := rfl
@[simp] theorem setF_fb (s : State) (b : Bool) : (s.setF b).fb = s.fb := rfl
@[simp] theorem setF_env (s : State) (b : Bool) : (s.setF b).env = s.env := rfl
@[simp] theorem setF_vb (s : State) (b : Bool) : (s.setF b).sched.vb = s.sched.vb := rfl
@[simp] theorem setF_hb (s : State) (b : Bool) : (s.setF b).sched.hb = s.sched.hb := rfl
@[simp] theorem setF_f (s : State) (b : Bool) : (s.setF b).sched.f = b := rfl
@[simp] theorem setF_hintCounter (s : State) (b : Bool) : (s.setF b).sched.hintCounter = s.sched.hintCounter := rfl
@[simp] theorem setF_curLine (s : State) (b : Bool) : (s.setF b).sched.curLine = s.sched.curLine := rfl
@[simp] theorem setF_phase (s : State) (b : Bool) : (s.setF b).sched.phase = s.sched.phase := rfl
@[simp] theorem setF_frameV30 (s : State) (b : Bool) : (s.setF b).sched.frameV30 = s.sched.frameV30 := rfl
theorem setF_events (s : State) (b : Bool) : (s.setF b).env.events = s.env.events := rfl

/-! ### The phase -/

@[simp] theorem setPhase_cfg (s : State) (p : Phase) : (s.setPhase p).cfg = s.cfg := rfl
@[simp] theorem setPhase_bus (s : State) (p : Phase) : (s.setPhase p).bus = s.bus := rfl
@[simp] theorem setPhase_vdp (s : State) (p : Phase) : (s.setPhase p).vdp = s.vdp := rfl
@[simp] theorem setPhase_fb (s : State) (p : Phase) : (s.setPhase p).fb = s.fb := rfl
@[simp] theorem setPhase_env (s : State) (p : Phase) : (s.setPhase p).env = s.env := rfl
@[simp] theorem setPhase_vb (s : State) (p : Phase) : (s.setPhase p).sched.vb = s.sched.vb := rfl
@[simp] theorem setPhase_hb (s : State) (p : Phase) : (s.setPhase p).sched.hb = s.sched.hb := rfl
@[simp] theorem setPhase_f (s : State) (p : Phase) : (s.setPhase p).sched.f = s.sched.f := rfl
@[simp] theorem setPhase_hintCounter (s : State) (p : Phase) :
    (s.setPhase p).sched.hintCounter = s.sched.hintCounter := rfl
@[simp] theorem setPhase_curLine (s : State) (p : Phase) : (s.setPhase p).sched.curLine = s.sched.curLine := rfl
@[simp] theorem setPhase_phase (s : State) (p : Phase) : (s.setPhase p).sched.phase = p := rfl
@[simp] theorem setPhase_frameV30 (s : State) (p : Phase) : (s.setPhase p).sched.frameV30 = s.sched.frameV30 := rfl
theorem setPhase_events (s : State) (p : Phase) : (s.setPhase p).env.events = s.env.events := rfl

/-! ### The line -/

@[simp] theorem setLine_cfg (s : State) (n : Nat) : (s.setLine n).cfg = s.cfg := rfl
@[simp] theorem setLine_bus (s : State) (n : Nat) : (s.setLine n).bus = s.bus := rfl
@[simp] theorem setLine_vdp (s : State) (n : Nat) : (s.setLine n).vdp = s.vdp := rfl
@[simp] theorem setLine_fb (s : State) (n : Nat) : (s.setLine n).fb = s.fb := rfl
@[simp] theorem setLine_env (s : State) (n : Nat) : (s.setLine n).env = s.env := rfl
@[simp] theorem setLine_vb (s : State) (n : Nat) : (s.setLine n).sched.vb = s.sched.vb := rfl
@[simp] theorem setLine_hb (s : State) (n : Nat) : (s.setLine n).sched.hb = s.sched.hb := rfl
@[simp] theorem setLine_f (s : State) (n : Nat) : (s.setLine n).sched.f = s.sched.f := rfl
@[simp] theorem setLine_hintCounter (s : State) (n : Nat) :
    (s.setLine n).sched.hintCounter = s.sched.hintCounter := rfl
@[simp] theorem setLine_curLine (s : State) (n : Nat) : (s.setLine n).sched.curLine = n := rfl
@[simp] theorem setLine_phase (s : State) (n : Nat) : (s.setLine n).sched.phase = s.sched.phase := rfl
@[simp] theorem setLine_frameV30 (s : State) (n : Nat) : (s.setLine n).sched.frameV30 = s.sched.frameV30 := rfl
theorem setLine_events (s : State) (n : Nat) : (s.setLine n).env.events = s.env.events := rfl

/-! ### The frame start -/

@[simp] theorem frameStart_cfg (s : State) : (s.frameStart).cfg = s.cfg := rfl
@[simp] theorem frameStart_bus (s : State) : (s.frameStart).bus = s.bus := rfl
@[simp] theorem frameStart_vdp (s : State) : (s.frameStart).vdp = s.vdp := rfl
@[simp] theorem frameStart_fb (s : State) : (s.frameStart).fb = s.fb := rfl
@[simp] theorem frameStart_env (s : State) : (s.frameStart).env = s.env := rfl
@[simp] theorem frameStart_vb (s : State) : (s.frameStart).sched.vb = false := rfl
@[simp] theorem frameStart_hb (s : State) : (s.frameStart).sched.hb = false := rfl
@[simp] theorem frameStart_f (s : State) : (s.frameStart).sched.f = false := rfl
@[simp] theorem frameStart_hintCounter (s : State) : (s.frameStart).sched.hintCounter = s.vdp.r 10 := rfl
@[simp] theorem frameStart_curLine (s : State) : (s.frameStart).sched.curLine = 0 := rfl
@[simp] theorem frameStart_phase (s : State) : (s.frameStart).sched.phase = s.sched.phase := rfl
@[simp] theorem frameStart_frameV30 (s : State) : (s.frameStart).sched.frameV30 = s.vdp.v30 := rfl
theorem frameStart_events (s : State) : (s.frameStart).env.events = s.env.events := rfl

/-! ### Registers -/

/-- A register after a register write. -/
theorem setR_r (v : VdpState) (i j : Fin 32) (b : Byte) : (v.setR i b).r j = if i = j then b else v.r j := by
  simp only [VdpState.r, VdpState.setR, Fin.getElem_fin, Vector.getElem_set, Fin.ext_iff]

@[simp] theorem setR_r_self (v : VdpState) (i : Fin 32) (b : Byte) : (v.setR i b).r i = b := by simp [setR_r]

/-- A register after a write of another. -/
theorem setR_r_of_ne (v : VdpState) {i j : Fin 32} (b : Byte) (h : i ≠ j) : (v.setR i b).r j = v.r j := by
  simp [setR_r, h]

/-- Two VDP states with the same registers have the same register values. -/
theorem r_of_reg {v w : VdpState} (h : v.reg = w.reg) (i : Fin 32) : v.r i = w.r i := by
  simp only [VdpState.r, h]

end Sys2Proof.Laws
end

