-- ==== Sys2Proof/Laws/Vdp.lean ====
section
/-! SUPPORT. What the VDP memory primitives and one step of each DMA loop do: the bytes written, what stays, and that the
canonical form is kept. -/

namespace Sys2Proof.Laws

open Sys2Proof.Machine

/-! ### Registers decide the derived values -/

theorem satBase_of_reg {v w : VdpState} (h : w.reg = v.reg) : w.satBase = v.satBase := by
  unfold VdpState.satBase VdpState.h40
  rw [r_of_reg h 12, r_of_reg h 5]

theorem satSize_of_reg {v w : VdpState} (h : w.reg = v.reg) : w.satSize = v.satSize := by
  unfold VdpState.satSize VdpState.h40
  rw [r_of_reg h 12]

theorem inc_of_reg {v w : VdpState} (h : w.reg = v.reg) : w.inc = v.inc := by
  simp only [VdpState.inc, r_of_reg h]

theorem dmaLength_of_reg {v w : VdpState} (h : w.reg = v.reg) : w.dmaLength = v.dmaLength := by
  unfold VdpState.dmaLength VdpState.lenReg
  rw [r_of_reg h 20, r_of_reg h 19]

/-- The sprite window lies within VRAM. -/
theorem satBase_add_satSize_le (v : VdpState) : v.satBase.toNat + v.satSize ≤ 0x10000 := by
  have h32 : ∀ b : Byte, ((b.setWidth 16 &&& 0x7F#16) <<< 9).toNat + 0x200 ≤ 0x10000 := by decide
  have h40 : ∀ b : Byte, ((b.setWidth 16 &&& 0x7E#16) <<< 9).toNat + 0x400 ≤ 0x10000 := by decide
  unfold VdpState.satBase VdpState.satSize
  split
  · exact h40 _
  · exact h32 _

theorem satSize_le (v : VdpState) : v.satSize ≤ 0x400 := by
  unfold VdpState.satSize
  split <;> decide

/-! ### VRAM writes -/

theorem read_vramWrite (v : VdpState) (x : Word) (b : Byte) (k : Nat) :
    (v.vramWrite x b).vram.read k = if k = x.toNat then b else v.vram.read k := by
  rw [vramWrite_vram, read_write]

/-- The cache after a VRAM write: the byte of the window that was written, and nothing else. -/
theorem satCache_vramWrite (v : VdpState) (x : Word) (b : Byte) (k : Nat) :
    (v.vramWrite x b).satCache.read k =
      if v.satBase.toNat + k = x.toNat ∧ k < v.satSize then b else v.satCache.read k := by
  unfold VdpState.vramWrite
  dsimp only
  by_cases h : v.satBase.toNat ≤ x.toNat ∧ x.toNat < v.satBase.toNat + v.satSize
  · rw [if_pos h, read_write]
    by_cases hk : k = x.toNat - v.satBase.toNat
    · rw [if_pos hk, if_pos (by omega)]
    · rw [if_neg hk, if_neg (by omega)]
  · rw [if_neg h, if_neg (by omega)]

/-- A VRAM write keeps the cache coherent with VRAM. -/
theorem coherent_vramWrite {v : VdpState} (h : v.CacheCoherent) (x : Word) (b : Byte) :
    (v.vramWrite x b).CacheCoherent := by
  intro k hk
  have hr : (v.vramWrite x b).reg = v.reg := rfl
  rw [satSize_of_reg hr] at hk
  rw [satBase_of_reg hr, satCache_vramWrite, read_vramWrite]
  by_cases hx : v.satBase.toNat + k = x.toNat
  · rw [if_pos ⟨hx, hk⟩, if_pos hx]
  · rw [if_neg (by omega), if_neg hx, h k hk]

theorem read_vramWritePair (v : VdpState) (a w : Word) (k : Nat) :
    (v.vramWritePair a w).vram.read k =
      if k = (a ^^^ 1).toNat then loByte w else if k = a.toNat then hiByte w else v.vram.read k := by
  rw [vramWritePair_vram, read_write, read_write]

theorem vram_wf_vramWrite {v : VdpState} (h : Memory.wf 0x10000 v.vram = true) (x : Word) (b : Byte) :
    Memory.wf 0x10000 (v.vramWrite x b).vram = true :=
  wf_write h x.isLt b

theorem satCache_wf_vramWrite {v : VdpState} (h : Memory.wf 0x400 v.satCache = true) (x : Word) (b : Byte) :
    Memory.wf 0x400 (v.vramWrite x b).satCache = true := by
  have := satSize_le v
  unfold VdpState.vramWrite
  dsimp only
  split
  · exact wf_write h (by omega) b
  · exact h

/-! ### What every store and every step of a run keeps -/

/-- What a store to a VDP memory, a FIFO push and an address advance keep: the registers, the code, the latch, the fill flag
and the latched counter; the canonical forms and the cache's agreement with VRAM stay if they held. -/
structure Kept (v w : VdpState) : Prop where
  reg : w.reg = v.reg
  code : w.code = v.code
  pending : w.pending = v.pending
  fillPending : w.fillPending = v.fillPending
  hvLatchValue : w.hvLatchValue = v.hvLatchValue
  vramWf : Memory.wf 0x10000 v.vram = true → Memory.wf 0x10000 w.vram = true
  cacheWf : Memory.wf 0x400 v.satCache = true → Memory.wf 0x400 w.satCache = true
  coherent : v.CacheCoherent → w.CacheCoherent

theorem Kept.refl (v : VdpState) : Kept v v := ⟨rfl, rfl, rfl, rfl, rfl, id, id, id⟩

theorem Kept.trans {u v w : VdpState} (h : Kept u v) (k : Kept v w) : Kept u w :=
  ⟨k.reg.trans h.reg, k.code.trans h.code, k.pending.trans h.pending, k.fillPending.trans h.fillPending,
    k.hvLatchValue.trans h.hvLatchValue, k.vramWf ∘ h.vramWf, k.cacheWf ∘ h.cacheWf, k.coherent ∘ h.coherent⟩

theorem kept_vramWrite (v : VdpState) (x : Word) (b : Byte) : Kept v (v.vramWrite x b) :=
  ⟨rfl, rfl, rfl, rfl, rfl, fun h => vram_wf_vramWrite h x b, fun h => satCache_wf_vramWrite h x b,
    fun h => coherent_vramWrite h x b⟩

theorem kept_vramWritePair (v : VdpState) (a w : Word) : Kept v (v.vramWritePair a w) :=
  (kept_vramWrite v a _).trans (kept_vramWrite _ _ _)

/-- An update that touches no register and neither VRAM nor the cache keeps the agreement. -/
theorem coherent_of_eq {v w : VdpState} (hr : w.reg = v.reg) (hv : w.vram = v.vram) (hc : w.satCache = v.satCache)
    (h : v.CacheCoherent) : w.CacheCoherent := by
  intro k hk
  rw [satSize_of_reg hr] at hk
  rw [satBase_of_reg hr, hv, hc]
  exact h k hk

/-- Only registers 5 and 12 place the window. -/
theorem coherent_of_r {v w : VdpState} (h5 : w.r 5 = v.r 5) (h12 : w.r 12 = v.r 12) (hv : w.vram = v.vram)
    (hc : w.satCache = v.satCache) (h : v.CacheCoherent) : w.CacheCoherent := by
  intro k hk
  have hb : w.satBase = v.satBase := by unfold VdpState.satBase VdpState.h40; rw [h12, h5]
  have hs : w.satSize = v.satSize := by unfold VdpState.satSize VdpState.h40; rw [h12]
  rw [hs] at hk
  rw [hb, hv, hc]
  exact h k hk

theorem kept_cramStore (v : VdpState) (i : BitVec 6) (w : Word) : Kept v (v.cramStore i w) :=
  ⟨rfl, rfl, rfl, rfl, rfl, id, id, coherent_of_eq rfl rfl rfl⟩

theorem kept_vsramStore (v : VdpState) (i : BitVec 6) (w : Word) : Kept v (v.vsramStore i w) :=
  ⟨rfl, rfl, rfl, rfl, rfl, id, id, coherent_of_eq rfl rfl rfl⟩

theorem kept_fifoPush (v : VdpState) (w : Word) : Kept v (v.fifoPush w) :=
  ⟨rfl, rfl, rfl, rfl, rfl, id, id, coherent_of_eq rfl rfl rfl⟩

theorem kept_addrAdvance (v : VdpState) : Kept v v.addrAdvance :=
  ⟨rfl, rfl, rfl, rfl, rfl, id, id, coherent_of_eq rfl rfl rfl⟩

theorem kept_storeWord (v : VdpState) (w : Word) : Kept v (v.storeWord w) := by
  unfold VdpState.storeWord
  split
  · exact kept_vramWritePair v _ _
  · exact kept_cramStore v _ _
  · exact kept_vsramStore v _ _
  · exact Kept.refl v
  · exact Kept.refl v

theorem kept_fillStep (w : Word) (v : VdpState) : Kept v (v.fillStep w) := by
  unfold VdpState.fillStep
  refine Kept.trans ?_ (kept_addrAdvance _)
  split
  · exact kept_vramWrite v _ _
  · exact kept_cramStore v _ _
  · exact kept_vsramStore v _ _
  · exact Kept.refl v
  · exact Kept.refl v

theorem kept_copyByte (p : VdpState × Word) : Kept p.1 (copyByte p).1 :=
  (kept_vramWrite p.1 _ _).trans (kept_addrAdvance _)

/-- What every step keeps, a run of steps keeps. -/
theorem iterate_kept {α : Type} (f : α → α) (g : α → VdpState) (h : ∀ x, Kept (g x) (g (f x))) (n : Nat) (x : α) :
    Kept (g x) (g (f^[n] x)) := by
  induction n generalizing x with
  | zero => exact Kept.refl _
  | succ n ih =>
    rw [Function.iterate_succ_apply]
    exact (h x).trans (ih (f x))

/-! ### The address during a run -/

theorem fillStep_addr (w : Word) (v : VdpState) : (v.fillStep w).addr = v.addr + v.inc := by
  unfold VdpState.fillStep
  split <;> rfl

theorem storeWord_addr (v : VdpState) (w : Word) : (v.storeWord w).addr = v.addr := by
  unfold VdpState.storeWord
  split <;> rfl

theorem storeWord_fifo (v : VdpState) (w : Word) : (v.storeWord w).fifo = v.fifo := by
  unfold VdpState.storeWord
  split <;> rfl

/-- After n steps that each advance the address by the increment, it has advanced by n times it. -/
theorem iterate_addr {α : Type} (f : α → α) (g : α → VdpState) (h : ∀ x, (g (f x)).addr = (g x).addr + (g x).inc)
    (hk : ∀ x, Kept (g x) (g (f x))) (n : Nat) (x : α) :
    (g (f^[n] x)).addr = (g x).addr + BitVec.ofNat 16 n * (g x).inc := by
  induction n generalizing x with
  | zero => simp
  | succ n ih =>
    rw [Function.iterate_succ_apply, ih, h, inc_of_reg (hk x).reg, BitVec.ofNat_add, BitVec.add_mul, BitVec.add_assoc,
      BitVec.add_comm (BitVec.ofNat 16 n * _)]
    simp

end Sys2Proof.Laws
end

