-- ==== Sys2Proof/Laws/Dma.lean ====
section
/-! SUPPORT. What a whole DMA run does: the length zeroed, the source registers, the address, and everything it keeps. -/

namespace Sys2Proof.Laws

open Sys2Proof.Machine

/-! ### The engine's register updates -/

theorem clearLength_r (v : VdpState) (i : Fin 32) :
    v.clearLength.r i = if i = 19 ∨ i = 20 then 0 else v.r i := by
  unfold VdpState.clearLength
  rw [setR_r, setR_r]
  by_cases h20 : (20 : Fin 32) = i
  · rw [if_pos h20, if_pos (Or.inr h20.symm)]
  · by_cases h19 : (19 : Fin 32) = i
    · rw [if_neg h20, if_pos h19, if_pos (Or.inl h19.symm)]
    · rw [if_neg h20, if_neg h19, if_neg (by rintro (h | h); exacts [h19 h.symm, h20 h.symm])]

theorem dmaPostUpdate_r (v : VdpState) (src : Addr) (i : Fin 32) :
    (v.dmaPostUpdate src).r i =
      if i = 19 ∨ i = 20 then 0
      else if i = 21 then src.extractLsb' 1 8 else if i = 22 then src.extractLsb' 9 8 else v.r i := by
  unfold VdpState.dmaPostUpdate
  rw [clearLength_r, setR_r, setR_r]
  split
  · rfl
  · by_cases h22 : (22 : Fin 32) = i
    · rw [if_pos h22, ← h22, if_neg (by decide), if_pos rfl]
    · rw [if_neg h22, if_neg (Ne.symm h22)]
      simp only [eq_comm]

/-! ### Fill -/

theorem kept_fillRun (w : Word) (n : Nat) (v : VdpState) : Kept v ((VdpState.fillStep w)^[n] v) :=
  iterate_kept _ id (kept_fillStep w) n v

/-- A fill zeroes the length registers and writes no other. -/
theorem runFill_r (v : VdpState) (w : Word) (i : Fin 32) :
    (v.runFill w).r i = if i = 19 ∨ i = 20 then 0 else v.r i := by
  unfold VdpState.runFill
  rw [clearLength_r, r_of_reg (kept_fillRun w _ v).reg]

theorem runFill_addr (v : VdpState) (w : Word) :
    (v.runFill w).addr = v.addr + BitVec.ofNat 16 v.dmaLength * v.inc := by
  unfold VdpState.runFill
  rw [clearLength_addr]
  exact iterate_addr _ id (fillStep_addr w) (kept_fillStep w) _ v

theorem fillStep_fifo (w : Word) (v : VdpState) : (v.fillStep w).fifo = v.fifo := by
  unfold VdpState.fillStep
  split <;> rfl

/-- A field no step changes, a run does not change. -/
theorem iterate_field {α β : Type} (f : α → α) (g : α → β) (h : ∀ x, g (f x) = g x) (n : Nat) (x : α) :
    g (f^[n] x) = g x := by
  induction n generalizing x with
  | zero => rfl
  | succ n ih => rw [Function.iterate_succ_apply, ih, h]

@[simp] theorem runFill_fifo (v : VdpState) (w : Word) : (v.runFill w).fifo = v.fifo := by
  unfold VdpState.runFill
  rw [clearLength_fifo]
  exact iterate_field _ VdpState.fifo (fillStep_fifo w) _ v

@[simp] theorem runFill_code (v : VdpState) (w : Word) : (v.runFill w).code = v.code := (kept_fillRun w _ v).code
@[simp] theorem runFill_pending (v : VdpState) (w : Word) : (v.runFill w).pending = v.pending :=
  (kept_fillRun w _ v).pending
@[simp] theorem runFill_fillPending (v : VdpState) (w : Word) : (v.runFill w).fillPending = v.fillPending :=
  (kept_fillRun w _ v).fillPending
@[simp] theorem runFill_hvLatchValue (v : VdpState) (w : Word) : (v.runFill w).hvLatchValue = v.hvLatchValue :=
  (kept_fillRun w _ v).hvLatchValue

theorem runFill_coherent {v : VdpState} (h : v.CacheCoherent) (w : Word) : (v.runFill w).CacheCoherent :=
  coherent_of_r (clearLength_r _ 5) (clearLength_r _ 12) rfl rfl ((kept_fillRun w v.dmaLength v).coherent h)

/-! ### Copy -/

theorem kept_copyRun (n : Nat) (p : VdpState × Word) : Kept p.1 (copyByte^[n] p).1 :=
  iterate_kept copyByte Prod.fst kept_copyByte n p

theorem copyByte_addr (p : VdpState × Word) : (copyByte p).1.addr = p.1.addr + p.1.inc := rfl

/-- The copy's source advances like its destination. -/
theorem copyRun_source (n : Nat) (p : VdpState × Word) :
    (copyByte^[n] p).2 = p.2 + BitVec.ofNat 16 n * p.1.inc := by
  induction n generalizing p with
  | zero => simp
  | succ n ih =>
    rw [Function.iterate_succ_apply, ih, inc_of_reg (kept_copyByte p).reg]
    show p.2 + p.1.inc + _ = _
    rw [BitVec.ofNat_add, BitVec.add_mul, BitVec.add_assoc, BitVec.add_comm (BitVec.ofNat 16 n * _)]
    simp

/-- A copy zeroes the length registers, leaves the source registers at the next source, and writes no other. -/
theorem dmaCopy_r (v : VdpState) (i : Fin 32) :
    v.dmaCopy.r i =
      if i = 19 ∨ i = 20 then 0
      else if i = 21 then loByte (v.copySource + BitVec.ofNat 16 v.dmaLength * v.inc)
      else if i = 22 then hiByte (v.copySource + BitVec.ofNat 16 v.dmaLength * v.inc) else v.r i := by
  unfold VdpState.dmaCopy
  dsimp only
  rw [clearLength_r, setR_r, setR_r, copyRun_source]
  split
  · rfl
  · by_cases h22 : (22 : Fin 32) = i
    · rw [if_pos h22, ← h22, if_neg (by decide), if_pos rfl]
    · rw [if_neg h22, if_neg (Ne.symm h22), r_of_reg (kept_copyRun v.dmaLength (v, v.copySource)).reg]
      simp only [eq_comm]

theorem dmaCopy_addr (v : VdpState) : v.dmaCopy.addr = v.addr + BitVec.ofNat 16 v.dmaLength * v.inc := by
  unfold VdpState.dmaCopy
  dsimp only
  rw [clearLength_addr, setR_addr, setR_addr]
  exact iterate_addr copyByte Prod.fst copyByte_addr kept_copyByte _ _

@[simp] theorem dmaCopy_code (v : VdpState) : v.dmaCopy.code = v.code := (kept_copyRun _ (v, v.copySource)).code
@[simp] theorem dmaCopy_pending (v : VdpState) : v.dmaCopy.pending = v.pending :=
  (kept_copyRun _ (v, v.copySource)).pending
@[simp] theorem dmaCopy_fillPending (v : VdpState) : v.dmaCopy.fillPending = v.fillPending :=
  (kept_copyRun _ (v, v.copySource)).fillPending
@[simp] theorem dmaCopy_hvLatchValue (v : VdpState) : v.dmaCopy.hvLatchValue = v.hvLatchValue :=
  (kept_copyRun _ (v, v.copySource)).hvLatchValue
@[simp] theorem dmaCopy_fifo (v : VdpState) : v.dmaCopy.fifo = v.fifo :=
  iterate_field copyByte (fun p => p.1.fifo) (fun _ => rfl) _ (v, v.copySource)
@[simp] theorem dmaCopy_cram (v : VdpState) : v.dmaCopy.cram = v.cram :=
  iterate_field copyByte (fun p => p.1.cram) (fun _ => rfl) _ (v, v.copySource)
@[simp] theorem dmaCopy_vsram (v : VdpState) : v.dmaCopy.vsram = v.vsram :=
  iterate_field copyByte (fun p => p.1.vsram) (fun _ => rfl) _ (v, v.copySource)

theorem dmaCopy_coherent {v : VdpState} (h : v.CacheCoherent) : v.dmaCopy.CacheCoherent := by
  have k := kept_copyRun v.dmaLength (v, v.copySource)
  refine coherent_of_r (v := (copyByte^[v.dmaLength] (v, v.copySource)).1) ?_ ?_ rfl rfl (k.coherent h)
  · rw [dmaCopy_r, r_of_reg k.reg]; rfl
  · rw [dmaCopy_r, r_of_reg k.reg]; rfl

/-! ### CPU copy -/

/-- A source read draws at most once and changes nothing else. -/
theorem dmaSourceRead16_state (s : State) (src : Addr) :
    (s.dmaSourceRead16 src).2 = s ∨ (s.dmaSourceRead16 src).2 = (s.draw 16).2 := by
  unfold State.dmaSourceRead16
  dsimp only
  split <;> simp

theorem dmaSourceRead16_vdp (s : State) (src : Addr) : (s.dmaSourceRead16 src).2.vdp = s.vdp := by
  rcases dmaSourceRead16_state s src with h | h <;> rw [h]; rfl

theorem kept_dma68kWord (p : State × Addr) : Kept p.1.vdp (dma68kWord p).1.vdp := by
  unfold dma68kWord
  dsimp only
  rw [dmaSourceRead16_vdp]
  exact ((kept_fifoPush _ _).trans (kept_storeWord _ _)).trans (kept_addrAdvance _)

theorem dma68kWord_addr (p : State × Addr) : (dma68kWord p).1.vdp.addr = p.1.vdp.addr + p.1.vdp.inc := by
  unfold dma68kWord
  dsimp only
  rw [addrAdvance_addr, storeWord_addr, dmaSourceRead16_vdp,
    inc_of_reg ((kept_fifoPush _ _).trans (kept_storeWord _ _)).reg]
  rfl

theorem kept_dma68kRun (n : Nat) (p : State × Addr) : Kept p.1.vdp (dma68kWord^[n] p).1.vdp :=
  iterate_kept dma68kWord (fun p => p.1.vdp) kept_dma68kWord n p

/-- The source of a CPU copy stays within its 128 KiB block and advances by the increment. -/
theorem dma68kWord_source (p : State × Addr) : (dma68kWord p).2 = nextSource p.2 p.1.vdp.inc := by
  unfold dma68kWord
  dsimp only
  rw [inc_of_reg (kept_addrAdvance _).reg, dmaSourceRead16_vdp,
    inc_of_reg ((kept_fifoPush _ _).trans (kept_storeWord _ _)).reg]

theorem dma68k_vdp_r (s : State) (i : Fin 32) (h19 : i ≠ 19) (h20 : i ≠ 20) (h21 : i ≠ 21) (h22 : i ≠ 22) :
    s.dma68k.vdp.r i = s.vdp.r i := by
  unfold State.dma68k
  dsimp only
  rw [dmaPostUpdate_r, if_neg (by simp [h19, h20]), if_neg h21, if_neg h22,
    r_of_reg (kept_dma68kRun s.vdp.dmaLength (s, s.vdp.cpuSource)).reg]

theorem dma68k_length (s : State) : s.dma68k.vdp.r 19 = 0 ∧ s.dma68k.vdp.r 20 = 0 := by
  unfold State.dma68k
  dsimp only
  rw [dmaPostUpdate_r, dmaPostUpdate_r]
  exact ⟨rfl, rfl⟩

theorem dma68k_addr (s : State) :
    s.dma68k.vdp.addr = s.vdp.addr + BitVec.ofNat 16 s.vdp.dmaLength * s.vdp.inc := by
  unfold State.dma68k
  dsimp only
  rw [dmaPostUpdate_addr]
  exact iterate_addr dma68kWord (fun p => p.1.vdp) dma68kWord_addr kept_dma68kWord _ _

@[simp] theorem dma68k_code (s : State) : s.dma68k.vdp.code = s.vdp.code :=
  (kept_dma68kRun _ (s, s.vdp.cpuSource)).code
@[simp] theorem dma68k_pending (s : State) : s.dma68k.vdp.pending = s.vdp.pending :=
  (kept_dma68kRun _ (s, s.vdp.cpuSource)).pending
@[simp] theorem dma68k_fillPending (s : State) : s.dma68k.vdp.fillPending = s.vdp.fillPending :=
  (kept_dma68kRun _ (s, s.vdp.cpuSource)).fillPending
@[simp] theorem dma68k_hvLatchValue (s : State) : s.dma68k.vdp.hvLatchValue = s.vdp.hvLatchValue :=
  (kept_dma68kRun _ (s, s.vdp.cpuSource)).hvLatchValue

theorem dma68k_coherent {s : State} (h : s.vdp.CacheCoherent) : s.dma68k.vdp.CacheCoherent := by
  unfold State.dma68k
  exact coherent_of_r ((dmaPostUpdate_r _ _ 5).trans rfl) ((dmaPostUpdate_r _ _ 12).trans rfl) rfl rfl
    ((kept_dma68kRun s.vdp.dmaLength (s, s.vdp.cpuSource)).coherent h)

end Sys2Proof.Laws
end

