-- ==== Sys2Proof/Laws/Ports.lean ====
section
/-! SUPPORT. What every VDP port access can do, said once: `PortStep s t` holds of the state `t` after any access to a port
of `s`. Later proofs cite it instead of unfolding the accesses. -/

namespace Sys2Proof.Laws

open Sys2Proof.Machine

/-! ### The VDP's part of the invariant -/

/-- The VDP's memories are canonical and its unimplemented registers hold 0. -/
abbrev VdpOk (v : VdpState) : Prop :=
  Memory.wf 0x10000 v.vram = true ∧ Memory.wf 0x400 v.satCache = true ∧ v.HighRegsZero

theorem Kept.ok {v w : VdpState} (k : Kept v w) (h : VdpOk v) : VdpOk w :=
  ⟨k.vramWf h.1, k.cacheWf h.2.1, fun i hi => (r_of_reg k.reg i).trans (h.2.2 i hi)⟩

theorem ok_setR {v : VdpState} (h : VdpOk v) (i : Fin 32) (b : Byte) (hi : i.val < 24) : VdpOk (v.setR i b) := by
  refine ⟨h.1, h.2.1, fun j hj => ?_⟩
  rw [setR_r_of_ne v b (by rintro rfl; omega)]
  exact h.2.2 j hj

theorem ok_clearLength {v : VdpState} (h : VdpOk v) : VdpOk v.clearLength :=
  ok_setR (ok_setR h 19 0 (by decide)) 20 0 (by decide)

theorem ok_runFill {v : VdpState} (h : VdpOk v) (w : Word) : VdpOk (v.runFill w) :=
  ok_clearLength ((kept_fillRun w v.dmaLength v).ok h)

theorem ok_dmaCopy {v : VdpState} (h : VdpOk v) : VdpOk v.dmaCopy :=
  ok_clearLength (ok_setR (ok_setR ((kept_copyRun v.dmaLength (v, v.copySource)).ok h) 21 _ (by decide)) 22 _ (by decide))

theorem ok_dmaPostUpdate {v : VdpState} (h : VdpOk v) (src : Addr) : VdpOk (v.dmaPostUpdate src) :=
  ok_clearLength (ok_setR (ok_setR h 21 _ (by decide)) 22 _ (by decide))

/-! ### Port steps -/

/-- What a port access keeps of the whole state. -/
structure PortStep (s t : State) : Prop extends State.PortFrame s t where
  reply : t.env.reply = s.env.reply
  ok : VdpOk s.vdp → VdpOk t.vdp

theorem busFrame_refl (s : State) : State.BusFrame s s :=
  ⟨rfl, rfl, rfl, rfl, rfl, rfl, rfl, rfl, Nat.le_refl _, [], rfl, by simp⟩

theorem busFrame_trans {s t u : State} (h : State.BusFrame s t) (k : State.BusFrame t u) : State.BusFrame s u := by
  obtain ⟨es, he, hb⟩ := h.called
  obtain ⟨es', he', hb'⟩ := k.called
  refine ⟨k.cfg.trans h.cfg, k.rom.trans h.rom, k.romSize.trans h.romSize, k.sched.trans h.sched, k.fb.trans h.fb,
    k.inbox.trans h.inbox, k.cpuScript.trans h.cpuScript, k.soundScript.trans h.soundScript,
    h.draws.trans k.draws, es' ++ es, ?_, ?_⟩
  · rw [State.Called, he', he, List.append_assoc]
  · intro e hm
    rcases List.mem_append.mp hm with hm | hm
    exacts [hb' e hm, hb e hm]

theorem PortStep.refl (s : State) : PortStep s s := ⟨⟨busFrame_refl s, rfl⟩, rfl, id⟩

theorem PortStep.trans {s t u : State} (h : PortStep s t) (k : PortStep t u) : PortStep s u :=
  ⟨⟨busFrame_trans h.toBusFrame k.toBusFrame, k.bus.trans h.bus⟩, k.reply.trans h.reply, k.ok ∘ h.ok⟩

/-- An update of the VDP alone. -/
theorem portStep_vdp (s : State) {v : VdpState} (h : VdpOk s.vdp → VdpOk v) : PortStep s { s with vdp := v } :=
  ⟨⟨⟨rfl, rfl, rfl, rfl, rfl, rfl, rfl, rfl, Nat.le_refl _, [], rfl, by simp⟩, rfl⟩, rfl, h⟩

theorem portStep_draw (s : State) (w : Nat) : PortStep s (s.draw w).2 :=
  ⟨⟨⟨rfl, rfl, rfl, rfl, rfl, rfl, rfl, rfl, Nat.le_succ _, [], rfl, by simp⟩, rfl⟩, rfl, id⟩

theorem portStep_call (s : State) (e : Event) (h : e.ofBus = true) : PortStep s (s.call e) :=
  ⟨⟨⟨rfl, rfl, rfl, rfl, rfl, rfl, rfl, rfl, Nat.le_refl _, [e], rfl, by simpa using h⟩, rfl⟩, rfl, id⟩

/-! ### DMA -/

theorem portStep_dmaSourceRead16 (s : State) (src : Addr) : PortStep s (s.dmaSourceRead16 src).2 := by
  rcases dmaSourceRead16_state s src with h | h <;> rw [h]
  exacts [PortStep.refl s, portStep_draw s 16]

theorem portStep_dma68kWord (p : State × Addr) : PortStep p.1 (dma68kWord p).1 := by
  refine (portStep_dmaSourceRead16 p.1 p.2).trans (portStep_vdp _ ?_)
  exact (((kept_fifoPush _ _).trans (kept_storeWord _ _)).trans (kept_addrAdvance _)).ok

theorem portStep_dma68kRun (n : Nat) (p : State × Addr) : PortStep p.1 (dma68kWord^[n] p).1 := by
  induction n generalizing p with
  | zero => exact PortStep.refl _
  | succ n ih =>
    rw [Function.iterate_succ_apply]
    exact (portStep_dma68kWord p).trans (ih _)

theorem portStep_dma68k (s : State) : PortStep s s.dma68k :=
  (portStep_dma68kRun _ (s, s.vdp.cpuSource)).trans (portStep_vdp _ fun h => ok_dmaPostUpdate h _)

theorem portStep_triggerDma (s : State) : PortStep s s.triggerDma := by
  unfold State.triggerDma
  split
  · exact portStep_dma68k s
  · exact portStep_vdp s id
  · exact portStep_vdp s ok_dmaCopy

/-! ### Control port -/

theorem portStep_hvLatchUpdate (s : State) (old v : Byte) : PortStep s (s.hvLatchUpdate old v) := by
  unfold State.hvLatchUpdate
  split
  · exact (portStep_draw s 8).trans (portStep_vdp _ id)
  · exact PortStep.refl s

theorem portStep_regStore (s : State) (r : BitVec 5) (v : Byte) : PortStep s (s.regStore r v) := by
  unfold State.regStore
  split
  · rename_i h
    have hr : r.toFin.val < 24 := by
      have := (Bool.and_eq_true _ _ ▸ h : _ ∧ _).1
      simpa using this
    split
    · exact (portStep_vdp s fun k => ok_setR k _ v hr).trans (portStep_hvLatchUpdate _ _ _)
    · exact portStep_vdp s fun k => ok_setR k _ v hr
  · exact PortStep.refl s

theorem portStep_regWrite (s : State) (r : BitVec 5) (v : Byte) : PortStep s (s.regWrite r v) :=
  (portStep_regStore s r v).trans (portStep_vdp _ id)

theorem portStep_cmdWord2 (s : State) (cd52 : BitVec 4) (a : BitVec 2) : PortStep s (s.cmdWord2 cd52 a) := by
  have h : PortStep s { s with vdp := s.vdp.cmdWord2 cd52 a } := portStep_vdp s id
  unfold State.cmdWord2
  dsimp only
  split
  · exact h.trans (portStep_triggerDma _)
  · exact h

theorem portStep_ctrlWrite (s : State) (w : Word) : PortStep s (s.ctrlWrite w) := by
  unfold State.ctrlWrite
  split
  · exact portStep_cmdWord2 s _ _
  · split
    · exact portStep_regWrite s _ _
    · exact portStep_vdp s id

/-! ### Data port -/

theorem ok_dataEnd {v : VdpState} (h : VdpOk v) (w : Word) : VdpOk (v.dataEnd w) := by
  unfold VdpState.dataEnd
  split
  · exact ok_runFill (v := { v with fillPending := false }) h w
  · exact h

theorem ok_dataBegin {v : VdpState} (h : VdpOk v) (w : Word) : VdpOk (v.dataBegin w) := h

theorem ok_writeVram {v : VdpState} (h : VdpOk v) (w : Word) : VdpOk (v.writeVram w) :=
  ok_dataEnd (((kept_vramWritePair _ _ _).trans (kept_addrAdvance _)).ok (ok_dataBegin h w)) w

theorem ok_writeCram {v : VdpState} (h : VdpOk v) (w : Word) : VdpOk (v.writeCram w) :=
  ok_dataEnd (((kept_cramStore _ _ _).trans (kept_addrAdvance _)).ok (ok_dataBegin h w)) w

theorem ok_writeVsram {v : VdpState} (h : VdpOk v) (w : Word) : VdpOk (v.writeVsram w) :=
  ok_dataEnd (((kept_vsramStore _ _ _).trans (kept_addrAdvance _)).ok (ok_dataBegin h w)) w

theorem ok_writeNotarget {v : VdpState} (h : VdpOk v) (w : Word) : VdpOk (v.writeNotarget w) :=
  ok_dataEnd ((kept_addrAdvance _).ok (ok_dataBegin h w)) w

theorem ok_writeReadcode {v : VdpState} (h : VdpOk v) (w : Word) : VdpOk (v.writeReadcode w) :=
  ok_dataEnd (ok_dataBegin h w) w

theorem ok_dataWrite {v : VdpState} (h : VdpOk v) (w : Word) : VdpOk (v.dataWrite w) := by
  unfold VdpState.dataWrite
  split
  exacts [ok_writeVram h w, ok_writeCram h w, ok_writeVsram h w, ok_writeNotarget h w, ok_writeReadcode h w]

theorem portStep_readInvalid (s : State) : PortStep s s.readInvalid.2 :=
  (portStep_draw s 16).trans (portStep_vdp _ id)

theorem portStep_dataRead (s : State) : PortStep s s.dataRead.2 := by
  unfold State.dataRead
  split
  · exact portStep_vdp s id
  · exact portStep_vdp s id
  · exact portStep_vdp s id
  · exact portStep_vdp s id
  · exact portStep_readInvalid s

/-! ### The ports -/

theorem portStep_statusRead (s : State) : PortStep s s.statusRead.2 := (portStep_draw s 6).trans (portStep_vdp _ id)

theorem portStep_hvRead (s : State) : PortStep s s.hvRead.2 := by
  unfold State.hvRead
  split
  · exact PortStep.refl s
  · exact portStep_draw s 8

theorem portStep_psgWrite (s : State) (v : Word) : PortStep s (s.psgWrite v) := portStep_call s _ rfl

theorem portStep_vdpRead16 (s : State) (off : BitVec 5) : PortStep s (s.vdpRead16 off).2 := by
  unfold State.vdpRead16
  split
  exacts [portStep_dataRead s, portStep_statusRead s, portStep_hvRead s, PortStep.refl s, PortStep.refl s]

theorem portStep_vdpWrite16 (s : State) (off : BitVec 5) (v : Word) : PortStep s (s.vdpWrite16 off v) := by
  unfold State.vdpWrite16
  split
  exacts [portStep_vdp s fun h => ok_dataWrite h v, portStep_ctrlWrite s v, PortStep.refl s, portStep_psgWrite s v,
    PortStep.refl s]

theorem portStep_vdpRead8 (s : State) (off : BitVec 5) : PortStep s (s.vdpRead8 off).2 := portStep_vdpRead16 s _

theorem portStep_vdpWrite8 (s : State) (off : BitVec 5) (b : Byte) : PortStep s (s.vdpWrite8 off b) :=
  portStep_vdpWrite16 s _ _

theorem portStep_vdpRead32 (s : State) (off : BitVec 5) : PortStep s (s.vdpRead32 off).2 :=
  (portStep_vdpRead16 s _).trans (portStep_vdpRead16 _ _)

theorem portStep_vdpWrite32 (s : State) (off : BitVec 5) (v : Long) : PortStep s (s.vdpWrite32 off v) :=
  (portStep_vdpWrite16 s _ _).trans (portStep_vdpWrite16 _ _ _)

end Sys2Proof.Laws
end

