-- ==== Sys2Proof/Laws/Bus.lean ====
section
/-! SUPPORT. What every bus transaction can do, said once: `BusStep s t` holds of the state `t` after any transaction of
either CPU in `s`. -/

namespace Sys2Proof.Laws

open Sys2Proof.Machine

/-- The memories and the registers of the invariant. -/
abbrev DataOk (s : State) : Prop := s.MemoriesWf ∧ s.vdp.HighRegsZero

/-- What a transaction keeps of the whole state. -/
structure BusStep (s t : State) : Prop extends State.BusFrame s t where
  reply : t.env.reply = s.env.reply
  ok : DataOk s → DataOk t

theorem BusStep.refl (s : State) : BusStep s s := ⟨busFrame_refl s, rfl, id⟩

theorem BusStep.trans {s t u : State} (h : BusStep s t) (k : BusStep t u) : BusStep s u :=
  ⟨busFrame_trans h.toBusFrame k.toBusFrame, k.reply.trans h.reply, k.ok ∘ h.ok⟩

theorem PortStep.toBusStep {s t : State} (h : PortStep s t) : BusStep s t := by
  refine ⟨h.toBusFrame, h.reply, fun ⟨⟨h1, h2, h3, h4, h5, h6⟩, h7⟩ => ?_⟩
  obtain ⟨k5, k6, k7⟩ := h.ok ⟨h5, h6, h7⟩
  refine ⟨⟨?_, ?_, ?_, ?_, k5, k6⟩, k7⟩ <;> rw [h.bus] <;> assumption

/-- An update of the bus's own memories and registers, but the ROM. -/
theorem busStep_bus (s : State) (b : BusState) (hr : b.rom = s.bus.rom) (hs : b.romSize = s.bus.romSize)
    (hw : Memory.wf 0x10000 s.bus.wram = true → Memory.wf 0x10000 b.wram = true)
    (hm : Memory.wf 0x8000 s.bus.sram = true → Memory.wf 0x8000 b.sram = true) : BusStep s { s with bus := b } := by
  refine ⟨⟨rfl, hr, hs, rfl, rfl, rfl, rfl, rfl, Nat.le_refl _, [], rfl, by simp⟩, rfl, fun ⟨⟨h1, h2, h3, h4, h5⟩, h6⟩ => ?_⟩
  refine ⟨⟨?_, ?_, hw h3, hm h4, h5⟩, h6⟩
  · show b.romSize ≤ romMax
    rw [hs]; exact h1
  · show Memory.wf b.romSize b.rom = true
    rw [hr, hs]; exact h2

theorem busStep_call (s : State) (e : Event) (h : e.ofBus = true) : BusStep s (s.call e) := (portStep_call s e h).toBusStep

theorem busStep_draw (s : State) (w : Nat) : BusStep s (s.draw w).2 := (portStep_draw s w).toBusStep

theorem busStep_ramStore (s : State) (a : Addr) (v : Byte) : BusStep s { s with bus := s.bus.ramStore a v } :=
  busStep_bus s _ rfl rfl (fun h => wf_write h (Nat.mod_lt _ (by decide)) v) id

/-- A sound-RAM index lies in the sound RAM, for an address of the region. -/
theorem soundIndex_lt (mask : Word) {a : Addr} (h : classify a.toNat = .soundRam) : soundIndex mask a < 0x8000 := by
  have hle : (a.setWidth 16 &&& mask).toNat ≤ (a.setWidth 16).toNat := by
    rw [BitVec.toNat_and]; exact Nat.and_le_left
  have hlo : a.toNat % 0x10000 < 0x8000 := by
    revert h
    unfold classify
    generalize a.toNat = n
    dsimp only
    repeat' refine iteInduction (motive := fun r => r = Region.soundRam → n % 0x10000 < 0x8000) (fun _ => ?_) (fun _ => ?_)
    all_goals first | (intro _; omega) | (intro h; cases h)
  simp only [BitVec.toNat_setWidth] at hle
  unfold soundIndex
  omega

theorem busStep_soundStore (s : State) (mask : Word) {a : Addr} (h : classify a.toNat = .soundRam) (v : Byte) :
    BusStep s { s with bus := s.bus.soundStore mask a v } :=
  busStep_bus s _ rfl rfl id (fun k => wf_write k (soundIndex_lt mask h) v)

/-! ### Byte handlers -/

theorem busStep_synthRead (s : State) (p : BitVec 2) : BusStep s (s.synthRead p).2 :=
  (busStep_draw s 8).trans (busStep_call _ _ rfl)

theorem busStep_ioRead (s : State) (p : BitVec 5) : BusStep s (s.ioRead p).2 :=
  (busStep_draw s 8).trans (busStep_call _ _ rfl)

theorem busStep_busReqRead (s : State) (a : Addr) : BusStep s (s.busReqRead a).2 := by
  unfold State.busReqRead
  split
  exacts [busStep_draw s 8, busStep_draw s 7]

theorem busStep_busReqWrite (s : State) (a : Addr) (b : Byte) : BusStep s (s.busReqWrite a b) := by
  unfold State.busReqWrite
  split
  · exact BusStep.refl s
  · exact (busStep_bus s { s.bus with busReq := b.getLsbD 0 } rfl rfl id id).trans (busStep_call _ _ rfl)

theorem busStep_soundResetWrite (s : State) (a : Addr) (b : Byte) : BusStep s (s.soundResetWrite a b) := by
  unfold State.soundResetWrite
  split
  · exact BusStep.refl s
  · exact (busStep_bus s { s.bus with soundReset := b.getLsbD 0 } rfl rfl id id).trans (busStep_call _ _ rfl)

theorem busStep_rd8 (s : State) (r : Region) (a : Addr) : BusStep s (s.rd8 r a).2 := by
  cases r
  case synth => exact busStep_synthRead s _
  case io => exact busStep_ioRead s _
  case busReq => exact busStep_busReqRead s a
  case soundReset => exact busStep_draw s 8
  case vdp => exact (portStep_vdpRead8 s _).toBusStep
  all_goals exact BusStep.refl s

theorem busStep_wr8 (s : State) (r : Region) (a : Addr) (b : Byte) (h : r = .soundRam → classify a.toNat = .soundRam) :
    BusStep s (s.wr8 r a b) := by
  cases r
  case soundRam => exact busStep_soundStore s _ (h rfl) b
  case synth => exact busStep_call s _ rfl
  case soundBank => exact busStep_bus s _ rfl rfl id id
  case io => exact busStep_call s _ rfl
  case busReq => exact busStep_busReqWrite s a b
  case soundReset => exact busStep_soundResetWrite s a b
  case vdp => exact (portStep_vdpWrite8 s _ b).toBusStep
  case ram => exact busStep_ramStore s a b
  all_goals exact BusStep.refl s

/-! ### Transactions -/

theorem busStep_busRead8 (s : State) (a : Addr) : BusStep s (s.busRead8 a).2 := busStep_rd8 s _ a

theorem busStep_busWrite8 (s : State) (a : Addr) (b : Byte) : BusStep s (s.busWrite8 a b) := busStep_wr8 s _ a b id

theorem busStep_readTwice (s : State) (r : Region) (a : Addr) : BusStep s (s.readTwice r a).2 := busStep_rd8 s r a

theorem busStep_busRead16 (s : State) (a : Addr) : BusStep s (s.busRead16 a).2 := by
  unfold State.busRead16
  dsimp only
  split
  case h_10 => exact (portStep_vdpRead16 s _).toBusStep
  all_goals first | exact BusStep.refl s | exact busStep_readTwice s _ _

theorem busStep_busWrite16 (s : State) (a : Addr) (v : Word) : BusStep s (s.busWrite16 a v) := by
  unfold State.busWrite16
  dsimp only
  split <;> rename_i h
  · exact (busStep_wr8 s .ram _ _ nofun).trans (busStep_wr8 _ .ram _ _ nofun)
  · exact BusStep.refl s
  · exact BusStep.refl s
  · exact busStep_wr8 s _ _ _ fun _ => h
  · exact busStep_wr8 s .synth _ _ nofun
  · exact busStep_wr8 s .soundBank _ _ nofun
  · exact busStep_wr8 s .busReq _ _ nofun
  · exact busStep_wr8 s .soundReset _ _ nofun
  · exact busStep_wr8 s .io _ _ nofun
  · exact (portStep_vdpWrite16 s _ _).toBusStep
  all_goals exact BusStep.refl s

theorem busStep_busRead32 (s : State) (a : Addr) : BusStep s (s.busRead32 a).2 :=
  (busStep_busRead16 s _).trans (busStep_busRead16 _ _)

theorem busStep_busWrite32 (s : State) (a : Addr) (v : Long) : BusStep s (s.busWrite32 a v) :=
  (busStep_busWrite16 s _ _).trans (busStep_busWrite16 _ _ _)

theorem busStep_soundRead8 (s : State) (z : Word) : BusStep s (s.soundRead8 z).2 := by
  unfold State.soundRead8
  split
  · split
    case h_4 => exact (portStep_vdpRead8 s _).toBusStep
    all_goals first | exact BusStep.refl s | exact busStep_rd8 s _ _
  · split
    · exact BusStep.refl s
    · exact busStep_busRead8 s _

theorem busStep_soundWrite8 (s : State) (z : Word) (b : Byte) : BusStep s (s.soundWrite8 z b) := by
  unfold State.soundWrite8
  split
  · split <;> rename_i h
    · exact busStep_wr8 s _ _ _ fun _ => h
    · exact busStep_wr8 s .synth _ _ nofun
    · exact busStep_wr8 s .soundBank _ _ nofun
    · exact (portStep_vdpWrite8 s _ b).toBusStep
    all_goals exact BusStep.refl s
  · split
    · exact BusStep.refl s
    · exact busStep_busWrite8 s _ b

/-- Every primary-CPU transaction. -/
theorem busStep_busOp (s : State) (op : BusOp) : BusStep s (s.busOp op).2 := by
  cases op
  exacts [busStep_busRead8 s _, busStep_busRead16 s _, busStep_busRead32 s _, busStep_busWrite8 s _ _,
    busStep_busWrite16 s _ _, busStep_busWrite32 s _ _]

/-- Every sound-CPU transaction. -/
theorem busStep_soundOp (s : State) (op : SoundOp) : BusStep s (s.soundOp op).2 := by
  cases op
  exacts [busStep_soundRead8 s _, busStep_soundWrite8 s _ _]

end Sys2Proof.Laws
end

