-- ==== Sys2Proof/Laws/PerInstr.lean ====
section
/-! SUPPORT. Per instruction: its request starts with the tag byte of one kind of request. -/

namespace Sys2Proof.Laws.EncodeTag

/-- The request of `i` is a tag byte and operand bytes. -/
def Statement (i : Instr) : Prop := ∃ (t : Tag) (args : List Byte), encode i = t.byte :: args

theorem read8 (a : Long) : Statement (.read8 a) := ⟨_, _, rfl⟩
theorem read16 (a : Long) : Statement (.read16 a) := ⟨_, _, rfl⟩
theorem read32 (a : Long) : Statement (.read32 a) := ⟨_, _, rfl⟩
theorem write8 (a : Long) (v : Byte) : Statement (.write8 a v) := ⟨_, _, rfl⟩
theorem write16 (a : Long) (v : Word) : Statement (.write16 a v) := ⟨_, _, rfl⟩
theorem write32 (a : Long) (v : Long) : Statement (.write32 a v) := ⟨_, _, rfl⟩
theorem sread8 (z : Word) : Statement (.sread8 z) := ⟨_, _, rfl⟩
theorem swrite8 (z : Word) (b : Byte) : Statement (.swrite8 z b) := ⟨_, _, rfl⟩
theorem dmaSourceRead16 (src : Addr) : Statement (.dmaSourceRead16 src) := ⟨_, _, rfl⟩
theorem regionRom (a : Addr) (acc : Access 8) : Statement (.regionRom a acc) := by cases acc <;> exact ⟨_, _, rfl⟩
theorem regionRommirror (a : Addr) (acc : Access 8) : Statement (.regionRommirror a acc) := by cases acc <;> exact ⟨_, _, rfl⟩
theorem regionRommirror2 (a : Addr) (acc : Access 8) : Statement (.regionRommirror2 a acc) := by cases acc <;> exact ⟨_, _, rfl⟩
theorem regionSoundram (a : Addr) (acc : Access 8) : Statement (.regionSoundram a acc) := by cases acc <;> exact ⟨_, _, rfl⟩
theorem regionSynth (a : Addr) (acc : Access 8) : Statement (.regionSynth a acc) := by cases acc <;> exact ⟨_, _, rfl⟩
theorem regionSoundbank (a : Addr) (acc : Access 8) : Statement (.regionSoundbank a acc) := by cases acc <;> exact ⟨_, _, rfl⟩
theorem regionSoundvdp (a : Addr) (acc : Access 8) : Statement (.regionSoundvdp a acc) := by cases acc <;> exact ⟨_, _, rfl⟩
theorem regionUnmapped (a : Addr) (acc : Access 8) : Statement (.regionUnmapped a acc) := by cases acc <;> exact ⟨_, _, rfl⟩
theorem regionSoundromview (a : Addr) (acc : Access 8) : Statement (.regionSoundromview a acc) := by cases acc <;> exact ⟨_, _, rfl⟩
theorem regionIo (a : Addr) (acc : Access 8) : Statement (.regionIo a acc) := by cases acc <;> exact ⟨_, _, rfl⟩
theorem regionBusreq (a : Addr) (acc : Access 8) : Statement (.regionBusreq a acc) := by cases acc <;> exact ⟨_, _, rfl⟩
theorem regionSoundreset (a : Addr) (acc : Access 8) : Statement (.regionSoundreset a acc) := by cases acc <;> exact ⟨_, _, rfl⟩
theorem regionUnmapped2 (a : Addr) (acc : Access 8) : Statement (.regionUnmapped2 a acc) := by cases acc <;> exact ⟨_, _, rfl⟩
theorem regionVdp (a : Addr) (acc : Access 8) : Statement (.regionVdp a acc) := by cases acc <;> exact ⟨_, _, rfl⟩
theorem regionRam (a : Addr) (acc : Access 8) : Statement (.regionRam a acc) := by cases acc <;> exact ⟨_, _, rfl⟩
theorem regionUnmapped3 (a : Addr) (acc : Access 8) : Statement (.regionUnmapped3 a acc) := by cases acc <;> exact ⟨_, _, rfl⟩
theorem vdpDataPort (off : BitVec 5) (acc : Access 16) : Statement (.vdpDataPort off acc) := by cases acc <;> exact ⟨_, _, rfl⟩
theorem vdpControlPort (off : BitVec 5) (acc : Access 16) : Statement (.vdpControlPort off acc) := by cases acc <;> exact ⟨_, _, rfl⟩
theorem vdpHvPort (off : BitVec 5) (acc : Access 16) : Statement (.vdpHvPort off acc) := by cases acc <;> exact ⟨_, _, rfl⟩
theorem vdpPsgPort (off : BitVec 5) (acc : Access 16) : Statement (.vdpPsgPort off acc) := by cases acc <;> exact ⟨_, _, rfl⟩
theorem vdpUnusedPort (off : BitVec 5) (acc : Access 16) : Statement (.vdpUnusedPort off acc) := by cases acc <;> exact ⟨_, _, rfl⟩
theorem ctrlRegwrite (x : BitVec 1) (r : BitVec 5) (v : Byte) : Statement (.ctrlRegwrite x r v) := ⟨_, _, rfl⟩
theorem ctrlCmd1 (cd10 : BitVec 2) (a : BitVec 14) : Statement (.ctrlCmd1 cd10 a) := ⟨_, _, rfl⟩
theorem ctrlCmd2 (x : Byte) (cd52 : BitVec 4) (y : BitVec 2) (a : BitVec 2) : Statement (.ctrlCmd2 x cd52 y a) := ⟨_, _, rfl⟩
theorem dataWriteVram (v : Word) : Statement (.dataWriteVram v) := ⟨_, _, rfl⟩
theorem dataWriteCram (v : Word) : Statement (.dataWriteCram v) := ⟨_, _, rfl⟩
theorem dataWriteVsram (v : Word) : Statement (.dataWriteVsram v) := ⟨_, _, rfl⟩
theorem dataWriteNotarget (v : Word) : Statement (.dataWriteNotarget v) := ⟨_, _, rfl⟩
theorem dataWriteReadcode (v : Word) : Statement (.dataWriteReadcode v) := ⟨_, _, rfl⟩
theorem dataReadVram : Statement .dataReadVram := ⟨_, _, rfl⟩
theorem dataReadVsram : Statement .dataReadVsram := ⟨_, _, rfl⟩
theorem dataReadCram : Statement .dataReadCram := ⟨_, _, rfl⟩
theorem dataReadVram8 : Statement .dataReadVram8 := ⟨_, _, rfl⟩
theorem dataReadInvalid : Statement .dataReadInvalid := ⟨_, _, rfl⟩
theorem statusRead (off : BitVec 5) : Statement (.statusRead off) := ⟨_, _, rfl⟩
theorem hvRead (off : BitVec 5) : Statement (.hvRead off) := ⟨_, _, rfl⟩
theorem hvWrite (off : BitVec 5) (v : Word) : Statement (.hvWrite off v) := ⟨_, _, rfl⟩
theorem psgWrite (off : BitVec 5) (v : Word) : Statement (.psgWrite off v) := ⟨_, _, rfl⟩
theorem psgRead (off : BitVec 5) : Statement (.psgRead off) := ⟨_, _, rfl⟩
theorem vdpUnused (off : BitVec 5) (acc : Access 16) : Statement (.vdpUnused off acc) := by cases acc <;> exact ⟨_, _, rfl⟩
theorem vdpByteAccess (off : BitVec 5) (acc : Access 8) : Statement (.vdpByteAccess off acc) := by cases acc <;> exact ⟨_, _, rfl⟩
theorem vdpLongAccess (off : BitVec 5) (acc : Access 32) : Statement (.vdpLongAccess off acc) := by cases acc <;> exact ⟨_, _, rfl⟩
theorem dma68k : Statement .dma68k := ⟨_, _, rfl⟩
theorem dmaFillArm : Statement .dmaFillArm := ⟨_, _, rfl⟩
theorem dmaFillFire (v : Word) : Statement (.dmaFillFire v) := ⟨_, _, rfl⟩
theorem dmaCopy : Statement .dmaCopy := ⟨_, _, rfl⟩
theorem dmaDisabled : Statement .dmaDisabled := ⟨_, _, rfl⟩
theorem renderLine (y : Byte) : Statement (.renderLine y) := ⟨_, _, rfl⟩
theorem runFrame : Statement .runFrame := ⟨_, _, rfl⟩
theorem reset : Statement .reset := ⟨_, _, rfl⟩
theorem loadCartridge (blob : List Byte) : Statement (.loadCartridge blob) := ⟨_, _, rfl⟩

end Sys2Proof.Laws.EncodeTag
end

