-- ==== Sys2Proof/Laws/Scheduler.lean ====
section
/-! SUPPORT. What a CPU budget, a line and a frame can do. A budget may make any bus transaction (`BudgetStep`); the
scheduler alone writes its flags, its line and its phase, and makes its own calls. -/

namespace Sys2Proof.Laws

open Sys2Proof.Machine

/-! ### Budgets -/

/-- The events of a budget: bus calls and the served transactions. -/
def inBudget (e : Event) : Bool :=
  match e with
  | .cpuAccess _ _ | .soundAccess _ _ => true
  | e => e.ofBus

/-- What the transactions of a budget keep. -/
structure BudgetStep (s t : State) : Prop where
  cfg : t.cfg = s.cfg
  rom : t.bus.rom = s.bus.rom
  romSize : t.bus.romSize = s.bus.romSize
  sched : t.sched = s.sched
  fb : t.fb = s.fb
  inbox : t.env.inbox = s.env.inbox
  reply : t.env.reply = s.env.reply
  draws : s.env.draws ≤ t.env.draws
  called : ∃ es, s.Called t es ∧ ∀ e ∈ es, inBudget e = true
  ok : DataOk s → DataOk t

theorem BudgetStep.refl (s : State) : BudgetStep s s :=
  ⟨rfl, rfl, rfl, rfl, rfl, rfl, rfl, Nat.le_refl _, ⟨[], rfl, by simp⟩, id⟩

theorem BudgetStep.trans {s t u : State} (h : BudgetStep s t) (k : BudgetStep t u) : BudgetStep s u := by
  obtain ⟨es, he, hb⟩ := h.called
  obtain ⟨es', he', hb'⟩ := k.called
  refine ⟨k.cfg.trans h.cfg, k.rom.trans h.rom, k.romSize.trans h.romSize, k.sched.trans h.sched, k.fb.trans h.fb,
    k.inbox.trans h.inbox, k.reply.trans h.reply, h.draws.trans k.draws, ⟨es' ++ es, ?_, ?_⟩, k.ok ∘ h.ok⟩
  · rw [State.Called, he', he, List.append_assoc]
  · intro e hm
    rcases List.mem_append.mp hm with hm | hm
    exacts [hb' e hm, hb e hm]

theorem inBudget_of_ofBus {e : Event} (h : e.ofBus = true) : inBudget e = true := by
  cases e <;> simp_all [inBudget, Event.ofBus]

theorem BusStep.toBudgetStep {s t : State} (h : BusStep s t) : BudgetStep s t := by
  obtain ⟨es, he, hb⟩ := h.called
  exact ⟨h.cfg, h.rom, h.romSize, h.sched, h.fb, h.inbox, h.reply, h.draws,
    ⟨es, he, fun e hm => inBudget_of_ofBus (hb e hm)⟩, h.ok⟩

theorem budgetStep_call (s : State) (e : Event) (h : inBudget e = true) : BudgetStep s (s.call e) :=
  ⟨rfl, rfl, rfl, rfl, rfl, rfl, rfl, Nat.le_refl _, ⟨[e], rfl, by simpa using h⟩, id⟩

theorem budgetStep_cpuAccess (s : State) (op : BusOp) : BudgetStep s (s.cpuAccess op) :=
  (busStep_busOp s op).toBudgetStep.trans (budgetStep_call _ _ rfl)

theorem budgetStep_soundAccess (s : State) (op : SoundOp) : BudgetStep s (s.soundAccess op) :=
  (busStep_soundOp s op).toBudgetStep.trans (budgetStep_call _ _ rfl)

theorem budgetStep_foldl {α : Type} (f : State → α → State) (h : ∀ s a, BudgetStep s (f s a)) (l : List α) (s : State) :
    BudgetStep s (l.foldl f s) := by
  induction l generalizing s with
  | nil => exact BudgetStep.refl s
  | cons a l ih => exact (h s a).trans (ih _)

theorem budgetStep_env (s : State) (a : List (List BusOp)) (b : List (List SoundOp)) :
    BudgetStep s { s with env := { s.env with cpuScript := a, soundScript := b } } :=
  ⟨rfl, rfl, rfl, rfl, rfl, rfl, rfl, Nat.le_refl _, ⟨[], rfl, by simp⟩, id⟩

/-- `Cpu.execute(n)`: the call, then the transactions. -/
theorem budgetStep_cpuExecute (s : State) (n : Nat) : BudgetStep (s.call (.cpuExecute n)) (s.cpuExecute n) := by
  unfold State.cpuExecute
  dsimp only
  split
  · exact BudgetStep.refl _
  · exact (budgetStep_env (s.call (.cpuExecute n)) _ _).trans (budgetStep_foldl _ budgetStep_cpuAccess _ _)

/-- `SoundCpu.execute(n)`. -/
theorem budgetStep_soundExecute (s : State) (n : Nat) : BudgetStep (s.call (.soundExecute n)) (s.soundExecute n) := by
  unfold State.soundExecute
  dsimp only
  split
  · exact BudgetStep.refl _
  · exact (budgetStep_env (s.call (.soundExecute n)) _ _).trans (budgetStep_foldl _ budgetStep_soundAccess _ _)

/-! ### What a line keeps -/

/-- What every part of a frame keeps, whatever the CPUs do: the parameters, the ROM, the queue, the reply, the frame's
sampled height, and the memories' and registers' part of the invariant. -/
structure LineStep (s t : State) : Prop where
  cfg : t.cfg = s.cfg
  rom : t.bus.rom = s.bus.rom
  romSize : t.bus.romSize = s.bus.romSize
  inbox : t.env.inbox = s.env.inbox
  reply : t.env.reply = s.env.reply
  draws : s.env.draws ≤ t.env.draws
  frameV30 : t.sched.frameV30 = s.sched.frameV30
  ok : DataOk s → DataOk t

theorem LineStep.refl (s : State) : LineStep s s := ⟨rfl, rfl, rfl, rfl, rfl, Nat.le_refl _, rfl, id⟩

theorem LineStep.trans {s t u : State} (h : LineStep s t) (k : LineStep t u) : LineStep s u :=
  ⟨k.cfg.trans h.cfg, k.rom.trans h.rom, k.romSize.trans h.romSize, k.inbox.trans h.inbox, k.reply.trans h.reply,
    h.draws.trans k.draws, k.frameV30.trans h.frameV30, k.ok ∘ h.ok⟩

theorem BudgetStep.toLineStep {s t : State} (h : BudgetStep s t) : LineStep s t :=
  ⟨h.cfg, h.rom, h.romSize, h.inbox, h.reply, h.draws, congrArg SchedState.frameV30 h.sched, h.ok⟩

theorem LineStep.call {s t : State} (h : LineStep s t) (e : Event) : LineStep s (t.call e) :=
  h.trans ⟨rfl, rfl, rfl, rfl, rfl, Nat.le_refl _, rfl, id⟩

theorem LineStep.cpuExecute {s t : State} (h : LineStep s t) (n : Nat) : LineStep s (t.cpuExecute n) :=
  (h.call _).trans (budgetStep_cpuExecute t n).toLineStep

theorem LineStep.soundExecute {s t : State} (h : LineStep s t) (n : Nat) : LineStep s (t.soundExecute n) :=
  (h.call _).trans (budgetStep_soundExecute t n).toLineStep

theorem LineStep.sched {s t : State} (h : LineStep s t) (c : SchedState) (hc : c.frameV30 = t.sched.frameV30) :
    LineStep s { t with sched := c } :=
  h.trans ⟨rfl, rfl, rfl, rfl, rfl, Nat.le_refl _, hc, id⟩

theorem LineStep.setVb {s t : State} (h : LineStep s t) (b : Bool) : LineStep s (t.setVb b) := h.sched _ rfl
theorem LineStep.setHb {s t : State} (h : LineStep s t) (b : Bool) : LineStep s (t.setHb b) := h.sched _ rfl
theorem LineStep.setF {s t : State} (h : LineStep s t) (b : Bool) : LineStep s (t.setF b) := h.sched _ rfl
theorem LineStep.setPhase {s t : State} (h : LineStep s t) (p : Phase) : LineStep s (t.setPhase p) := h.sched _ rfl
theorem LineStep.setLine {s t : State} (h : LineStep s t) (n : Nat) : LineStep s (t.setLine n) := h.sched _ rfl

theorem LineStep.lineCounterStep {s t : State} (h : LineStep s t) : LineStep s t.lineCounterStep := by
  unfold State.lineCounterStep
  dsimp only
  split
  · split
    · exact (h.sched { t.sched with hintCounter := t.vdp.r 10 } rfl).call _
    · exact h.sched _ rfl
  · exact h.sched _ rfl

theorem LineStep.renderLine {s t : State} (h : LineStep s t) (y : Nat) : LineStep s (t.renderLine y) := by
  unfold State.renderLine
  split
  · exact h.trans ⟨rfl, rfl, rfl, rfl, rfl, Nat.le_refl _, rfl, id⟩
  · exact h

theorem LineStep.renderIfOn {s t : State} (h : LineStep s t) (y : Nat) : LineStep s (t.renderIfOn y) := by
  unfold State.renderIfOn
  split
  exacts [h.renderLine y, h]

theorem LineStep.frameInterrupt {s t : State} (h : LineStep s t) : LineStep s t.frameInterrupt := by
  unfold State.frameInterrupt
  split
  exacts [h.call _, h]

theorem lineStep_visibleActive (s : State) (y : Nat) : LineStep s (s.visibleActive y) :=
  (((((LineStep.refl s).setLine y).setPhase _).cpuExecute _).soundExecute _).lineCounterStep

theorem lineStep_visibleLine (s : State) (y : Nat) : LineStep s (s.visibleLine y) :=
  ((((((lineStep_visibleActive s y).setHb _).setPhase _).cpuExecute _).setHb _).renderIfOn y).call _

theorem lineStep_vblankEntryLine (s : State) (y : Nat) : LineStep s (s.vblankEntryLine y) :=
  ((((((((((LineStep.refl s).setLine y).setPhase _).setVb _).cpuExecute _).soundExecute _).setF _).frameInterrupt).setPhase
    _).cpuExecute _).call _

theorem lineStep_vblankLine (s : State) (y : Nat) : LineStep s (s.vblankLine y) :=
  (((((LineStep.refl s).setLine y).setPhase _).cpuExecute _).soundExecute _).call _

theorem lineStep_foldl (f : State → Nat → State) (h : ∀ s y, LineStep s (f s y)) (l : List Nat) (s : State) :
    LineStep s (l.foldl f s) := by
  induction l generalizing s with
  | nil => exact LineStep.refl s
  | cons a l ih => exact (h s a).trans (ih _)

/-- A whole frame, after its start. -/
theorem lineStep_runFrame (s : State) : LineStep s.frameStart s.runFrame :=
  (((lineStep_foldl _ lineStep_visibleLine _ _).trans (lineStep_vblankEntryLine _ _)).trans
    (lineStep_foldl _ lineStep_vblankLine _ _)).setPhase _

/-! ### The flags, the line and the phase -/

theorem cpuExecute_sched (s : State) (n : Nat) : (s.cpuExecute n).sched = s.sched := (budgetStep_cpuExecute s n).sched
theorem soundExecute_sched (s : State) (n : Nat) : (s.soundExecute n).sched = s.sched :=
  (budgetStep_soundExecute s n).sched

theorem lineCounterStep_sched (s : State) :
    s.lineCounterStep.sched =
      { s.sched with hintCounter := if s.sched.hintCounter = 0 then s.vdp.r 10 else s.sched.hintCounter - 1 } := by
  unfold State.lineCounterStep
  dsimp only
  split
  · split <;> rfl
  · rfl

theorem renderLine_sched (s : State) (y : Nat) : (s.renderLine y).sched = s.sched := by
  unfold State.renderLine; split <;> rfl

theorem renderIfOn_sched (s : State) (y : Nat) : (s.renderIfOn y).sched = s.sched := by
  unfold State.renderIfOn; split; exacts [renderLine_sched s y, rfl]

theorem frameInterrupt_sched (s : State) : s.frameInterrupt.sched = s.sched := by
  unfold State.frameInterrupt; split <;> rfl

/-- The flags after a visible line: HB clear, VB and F as they were (R432, R442). -/
theorem visibleLine_flags (s : State) (y : Nat) :
    (s.visibleLine y).sched.vb = s.sched.vb ∧ (s.visibleLine y).sched.f = s.sched.f ∧
      (s.visibleLine y).sched.hb = false := by
  unfold State.visibleLine State.visibleActive
  simp only [call_sched, renderIfOn_sched]
  refine ⟨?_, ?_, rfl⟩ <;>
    simp only [setHb_vb, setHb_f, cpuExecute_sched, setPhase_vb, setPhase_f, lineCounterStep_sched, soundExecute_sched,
      setLine_vb, setLine_f]

/-- The scheduler after the entry line (R437). -/
theorem vblankEntryLine_sched (s : State) (y : Nat) :
    (s.vblankEntryLine y).sched =
      { s.sched with curLine := y, phase := .vblankLine, vb := true, f := true } := by
  unfold State.vblankEntryLine
  dsimp only
  rw [call_sched, cpuExecute_sched]
  unfold State.setPhase
  rw [frameInterrupt_sched]
  unfold State.setF
  rw [soundExecute_sched, cpuExecute_sched]
  rfl

/-- The scheduler after a blanking line (R439). -/
theorem vblankLine_sched (s : State) (y : Nat) :
    (s.vblankLine y).sched = { s.sched with curLine := y, phase := .vblankLine } := by
  unfold State.vblankLine
  rw [call_sched, soundExecute_sched, cpuExecute_sched]
  rfl

theorem foldl_visible_flags (l : List Nat) (s : State) (h : s.sched.hb = false) :
    (l.foldl State.visibleLine s).sched.vb = s.sched.vb ∧ (l.foldl State.visibleLine s).sched.f = s.sched.f ∧
      (l.foldl State.visibleLine s).sched.hb = false := by
  induction l generalizing s with
  | nil => exact ⟨rfl, rfl, h⟩
  | cons y l ih =>
    obtain ⟨h1, h2, h3⟩ := visibleLine_flags s y
    obtain ⟨k1, k2, k3⟩ := ih _ h3
    exact ⟨k1.trans h1, k2.trans h2, k3⟩

theorem foldl_vblank_sched (l : List Nat) (y : Nat) (s : State) :
    ((l ++ [y]).foldl State.vblankLine s).sched = { s.sched with curLine := y, phase := .vblankLine } := by
  induction l generalizing s with
  | nil => exact vblankLine_sched s y
  | cons a l ih =>
    rw [List.cons_append, List.foldl_cons, ih, vblankLine_sched]

theorem height_cases (v : VdpState) : v.height = 240 ∨ v.height = 224 := by
  unfold VdpState.height
  split
  exacts [Or.inl rfl, Or.inr rfl]

theorem totalLines_cases (r : TvRegion) : totalLines r = 262 ∨ totalLines r = 313 := by
  cases r
  exacts [Or.inl rfl, Or.inr rfl]

/-- The flags, the line and the phase when a frame has run (R442, R440). -/
theorem runFrame_sched (s : State) :
    s.runFrame.sched.vb = true ∧ s.runFrame.sched.f = true ∧ s.runFrame.sched.hb = false ∧
      s.runFrame.sched.phase = .idle ∧ s.runFrame.sched.curLine = totalLines s.cfg.region - 1 ∧
      s.runFrame.sched.frameV30 = s.vdp.v30 := by
  have hf : s.runFrame.sched.frameV30 = s.vdp.v30 := (lineStep_runFrame s).frameV30
  obtain ⟨-, -, h3⟩ := foldl_visible_flags (List.range s.vdp.height) s.frameStart rfl
  have hl : ∃ l, List.range' (s.vdp.height + 1) (totalLines s.cfg.region - (s.vdp.height + 1)) =
      l ++ [totalLines s.cfg.region - 1] := by
    have hh := height_cases s.vdp
    have ht := totalLines_cases s.cfg.region
    obtain ⟨n, hn⟩ : ∃ n, totalLines s.cfg.region - (s.vdp.height + 1) = n + 1 :=
      ⟨totalLines s.cfg.region - (s.vdp.height + 1) - 1, by omega⟩
    refine ⟨List.range' (s.vdp.height + 1) n, ?_⟩
    rw [hn, List.range'_1_concat]
    congr 2
    omega
  obtain ⟨l, hl⟩ := hl
  refine ⟨?_, ?_, ?_, rfl, ?_, hf⟩ <;>
    (unfold State.runFrame
     dsimp only
     rw [hl]
     unfold State.setPhase
     rw [foldl_vblank_sched, vblankEntryLine_sched])
  exact h3

/-! ### The calls of a frame -/

/-- The sum of a measure over all calls made so far. -/
def total (μ : Event → Nat) (s : State) : Nat := (s.env.events.map μ).sum

theorem total_call (μ : Event → Nat) (s : State) (e : Event) : total μ (s.call e) = μ e + total μ s := by
  simp [total]

theorem total_of_events (μ : Event → Nat) {s t : State} (h : t.env.events = s.env.events) : total μ t = total μ s := by
  simp only [total, h]

theorem total_of_budget (μ : Event → Nat) (h : ∀ e, inBudget e = true → μ e = 0) {s t : State} (k : BudgetStep s t) :
    total μ t = total μ s := by
  obtain ⟨es, he, hb⟩ := k.called
  have : (es.map μ).sum = 0 := List.sum_eq_zero (by simpa using fun e hm => h e (hb e hm))
  simp only [total, show t.env.events = es ++ s.env.events from he, List.map_append, List.sum_append, this, zero_add]

theorem total_cpuExecute (μ : Event → Nat) (h : ∀ e, inBudget e = true → μ e = 0) (s : State) (n : Nat) :
    total μ (s.cpuExecute n) = μ (.cpuExecute n) + total μ s := by
  rw [total_of_budget μ h (budgetStep_cpuExecute s n), total_call]

theorem total_soundExecute (μ : Event → Nat) (h : ∀ e, inBudget e = true → μ e = 0) (s : State) (n : Nat) :
    total μ (s.soundExecute n) = μ (.soundExecute n) + total μ s := by
  rw [total_of_budget μ h (budgetStep_soundExecute s n), total_call]

theorem total_lineCounterStep (μ : Event → Nat) (h4 : μ (.assertInterrupt 4) = 0) (s : State) :
    total μ s.lineCounterStep = total μ s := by
  unfold State.lineCounterStep
  dsimp only
  split
  · split
    · exact (total_call μ _ _).trans (by rw [h4, zero_add]; rfl)
    · rfl
  · rfl

theorem total_frameInterrupt (μ : Event → Nat) (h6 : μ (.assertInterrupt 6) = 0) (s : State) :
    total μ s.frameInterrupt = total μ s := by
  unfold State.frameInterrupt
  split
  · exact (total_call μ _ _).trans (by rw [h6, zero_add])
  · rfl

theorem renderIfOn_events (s : State) (y : Nat) : (s.renderIfOn y).env = s.env := by
  unfold State.renderIfOn State.renderLine
  split
  · split <;> rfl
  · rfl

/-- The calls a visible line makes, but for the line interrupt. -/
theorem total_visibleLine (μ : Event → Nat) (h : ∀ e, inBudget e = true → μ e = 0) (h4 : μ (.assertInterrupt 4) = 0)
    (s : State) (y : Nat) :
    total μ (s.visibleLine y) = μ (.cpuExecute s.cfg.cpuActiveCycles) + μ (.soundExecute (soundBudget s.cfg)) +
      μ (.cpuExecute s.cfg.cpuHblankCycles) + μ .synthTick + total μ s := by
  unfold State.visibleLine
  dsimp only
  rw [total_call, total_of_events μ (congrArg EnvState.events (renderIfOn_events _ y)),
    total_of_events μ (setHb_events _ _), total_cpuExecute μ h, total_of_events μ (setPhase_events _ _),
    total_of_events μ (setHb_events _ _)]
  unfold State.visibleActive
  rw [total_lineCounterStep μ h4, total_soundExecute μ h, total_cpuExecute μ h, total_of_events μ (setPhase_events _ _),
    total_of_events μ (setLine_events _ _)]
  omega

theorem total_vblankEntryLine (μ : Event → Nat) (h : ∀ e, inBudget e = true → μ e = 0)
    (h6 : μ (.assertInterrupt 6) = 0) (s : State) (y : Nat) :
    total μ (s.vblankEntryLine y) = μ (.cpuExecute s.cfg.cpuVblankEntryCycles) + μ (.soundExecute (soundBudget s.cfg)) +
      μ (.cpuExecute (cpuLineCycles s.cfg - s.cfg.cpuVblankEntryCycles)) + μ .synthTick + total μ s := by
  unfold State.vblankEntryLine
  dsimp only
  rw [total_call, total_cpuExecute μ h, total_of_events μ (setPhase_events _ _), total_frameInterrupt μ h6,
    total_of_events μ (setF_events _ _), total_soundExecute μ h, total_cpuExecute μ h,
    total_of_events μ (setVb_events _ _), total_of_events μ (setPhase_events _ _), total_of_events μ (setLine_events _ _)]
  omega

theorem total_vblankLine (μ : Event → Nat) (h : ∀ e, inBudget e = true → μ e = 0) (s : State) (y : Nat) :
    total μ (s.vblankLine y) = μ (.cpuExecute (cpuLineCycles s.cfg)) + μ (.soundExecute (soundBudget s.cfg)) +
      μ .synthTick + total μ s := by
  unfold State.vblankLine
  rw [total_call, total_soundExecute μ h, total_cpuExecute μ h, total_of_events μ (setPhase_events _ _),
    total_of_events μ (setLine_events _ _)]
  omega

theorem total_foldl (μ : Event → Nat) (f : State → Nat → State) (c : Config.Params → Nat)
    (h : ∀ s y, total μ (f s y) = c s.cfg + total μ s) (hc : ∀ s y, (f s y).cfg = s.cfg) (l : List Nat) (s : State) :
    total μ (l.foldl f s) = l.length * c s.cfg + total μ s := by
  induction l generalizing s with
  | nil => simp
  | cons y l ih =>
    rw [List.foldl_cons, ih, h, hc, List.length_cons, Nat.add_mul]
    omega

theorem cfg_foldl (f : State → Nat → State) (hc : ∀ s y, (f s y).cfg = s.cfg) (l : List Nat) (s : State) :
    (l.foldl f s).cfg = s.cfg := by
  induction l generalizing s with
  | nil => rfl
  | cons y l ih => rw [List.foldl_cons, ih, hc]

/-- The calls of a frame, but for the interrupts. -/
theorem total_runFrame (μ : Event → Nat) (h : ∀ e, inBudget e = true → μ e = 0) (h4 : μ (.assertInterrupt 4) = 0)
    (h6 : μ (.assertInterrupt 6) = 0) (s : State) :
    total μ s.runFrame =
      s.vdp.height * (μ (.cpuExecute s.cfg.cpuActiveCycles) + μ (.soundExecute (soundBudget s.cfg)) +
        μ (.cpuExecute s.cfg.cpuHblankCycles) + μ .synthTick) +
      (μ (.cpuExecute s.cfg.cpuVblankEntryCycles) + μ (.soundExecute (soundBudget s.cfg)) +
        μ (.cpuExecute (cpuLineCycles s.cfg - s.cfg.cpuVblankEntryCycles)) + μ .synthTick) +
      (totalLines s.cfg.region - (s.vdp.height + 1)) *
        (μ (.cpuExecute (cpuLineCycles s.cfg)) + μ (.soundExecute (soundBudget s.cfg)) + μ .synthTick) +
      total μ s := by
  unfold State.runFrame
  dsimp only
  have hv := cfg_foldl State.visibleLine (fun s y => (lineStep_visibleLine s y).cfg) (List.range s.vdp.height) s.frameStart
  rw [total_of_events μ (setPhase_events _ _),
    total_foldl μ _ (fun p => μ (.cpuExecute (cpuLineCycles p)) + μ (.soundExecute (soundBudget p)) + μ .synthTick)
      (fun s y => total_vblankLine μ h s y) (fun s y => (lineStep_vblankLine s y).cfg),
    (lineStep_vblankEntryLine _ _).cfg, total_vblankEntryLine μ h h6,
    total_foldl μ _ (fun p => μ (.cpuExecute p.cpuActiveCycles) + μ (.soundExecute (soundBudget p)) +
        μ (.cpuExecute p.cpuHblankCycles) + μ .synthTick)
      (fun s y => total_visibleLine μ h h4 s y) (fun s y => (lineStep_visibleLine s y).cfg), hv,
    List.length_range, List.length_range', total_of_events μ (frameStart_events s)]
  simp only [frameStart_cfg]
  omega

/-! ### The framebuffer during a frame -/

theorem renderLine_row (s : State) (y : Nat) (i : Nat) (hi : i < 240) (h : i ≠ y) :
    (s.renderLine y).fb[i] = s.fb[i] := by
  unfold State.renderLine
  split
  · rename_i hy
    exact Vector.getElem_set_ne hy hi (Ne.symm h)
  · rfl

theorem renderIfOn_row (s : State) (y : Nat) (i : Nat) (hi : i < 240) (h : i ≠ y) :
    (s.renderIfOn y).fb[i] = s.fb[i] := by
  unfold State.renderIfOn
  split
  exacts [renderLine_row s y i hi h, rfl]

/-- All a requested line can do: the render of a visible line with the display on, and nothing otherwise (R379). -/
theorem renderVisible_eq (s : State) (y : Nat) :
    s.renderVisible y = if y < s.vdp.height ∧ s.vdp.displayOn = true then s.renderLine y else s := by
  unfold State.renderVisible State.renderIfOn
  split <;> rename_i h
  · simp only [h, true_and]
  · rw [if_neg (fun k => h k.1)]

/-- R379: no other row is written, and none that is not visible. -/
theorem renderVisible_row (s : State) (y : Nat) (i : Nat) (hi : i < 240) (h : i ≠ y ∨ s.vdp.height ≤ i) :
    (s.renderVisible y).fb[i] = s.fb[i] := by
  rw [renderVisible_eq]
  split
  · rename_i k
    exact renderLine_row s y i hi (h.elim id (by omega))
  · rfl

theorem cpuExecute_fb (s : State) (n : Nat) : (s.cpuExecute n).fb = s.fb := (budgetStep_cpuExecute s n).fb
theorem soundExecute_fb (s : State) (n : Nat) : (s.soundExecute n).fb = s.fb := (budgetStep_soundExecute s n).fb

theorem lineCounterStep_fb (s : State) : s.lineCounterStep.fb = s.fb := by
  unfold State.lineCounterStep
  dsimp only
  split
  · split <;> rfl
  · rfl

theorem frameInterrupt_fb (s : State) : s.frameInterrupt.fb = s.fb := by
  unfold State.frameInterrupt
  split <;> rfl

theorem visibleLine_row (s : State) (y : Nat) (i : Nat) (hi : i < 240) (h : i ≠ y) :
    (s.visibleLine y).fb[i] = s.fb[i] := by
  unfold State.visibleLine State.visibleActive
  simp only [call_fb]
  rw [renderIfOn_row _ y i hi h]
  simp only [setHb_fb, cpuExecute_fb, setPhase_fb, lineCounterStep_fb, soundExecute_fb, setLine_fb]

theorem vblankEntryLine_fb (s : State) (y : Nat) : (s.vblankEntryLine y).fb = s.fb := by
  unfold State.vblankEntryLine
  simp only [call_fb, cpuExecute_fb, setPhase_fb, frameInterrupt_fb, setF_fb, soundExecute_fb, setVb_fb, setLine_fb]

theorem vblankLine_fb (s : State) (y : Nat) : (s.vblankLine y).fb = s.fb := by
  unfold State.vblankLine
  simp only [call_fb, cpuExecute_fb, setPhase_fb, soundExecute_fb, setLine_fb]

@[simp] theorem renderIfOn_vdp (s : State) (y : Nat) : (s.renderIfOn y).vdp = s.vdp := by
  unfold State.renderIfOn State.renderLine
  split
  · split <;> rfl
  · rfl

@[simp] theorem renderIfOn_cfg (s : State) (y : Nat) : (s.renderIfOn y).cfg = s.cfg := by
  unfold State.renderIfOn State.renderLine
  split
  · split <;> rfl
  · rfl

theorem renderLine_fb (s : State) (y : Nat) (hy : y < 240) :
    (s.renderLine y).fb = s.fb.set y (s.vdp.renderRow s.cfg y s.fb[y]) := by
  unfold State.renderLine
  rw [dif_pos hy]

/-- All a gated render can do to the framebuffer. -/
theorem renderIfOn_fb (s : State) (y : Nat) (i : Nat) (hi : i < 240) :
    (s.renderIfOn y).fb[i] =
      if i = y ∧ s.vdp.displayOn = true then s.vdp.renderRow s.cfg y s.fb[i] else s.fb[i] := by
  by_cases h : i = y
  · subst h
    by_cases hd : s.vdp.displayOn = true
    · have h1 : s.renderIfOn i = s.renderLine i := if_pos hd
      simp only [h1, renderLine_fb s i hi, Vector.getElem_set_self, hd, and_self, if_true]
    · have h1 : s.renderIfOn i = s := if_neg hd
      simp only [h1, hd, Bool.false_eq_true, and_false, if_false]
  · simp only [renderIfOn_row s y i hi h, h, false_and, if_false]

/-- All a visible line can do to the framebuffer, whatever the CPUs do in it: its row, from the VDP as its budgets leave it,
if the display is on then (R432, R435). -/
theorem visibleLine_fb (s : State) (y : Nat) (i : Nat) (hi : i < 240) :
    (s.visibleLine y).fb[i] =
      if i = y ∧ (s.visibleLine y).vdp.displayOn = true then (s.visibleLine y).vdp.renderRow s.cfg y s.fb[i]
      else s.fb[i] := by
  rw [← (lineStep_visibleLine s y).cfg]
  unfold State.visibleLine State.visibleActive
  simp only [call_fb, call_vdp, call_cfg, renderIfOn_vdp, renderIfOn_cfg]
  rw [renderIfOn_fb _ y i hi]
  simp only [setHb_fb, cpuExecute_fb, setPhase_fb, lineCounterStep_fb, soundExecute_fb, setLine_fb]

/-- One step of the line counter (R433). -/
theorem lineCounterStep_eq (s : State) :
    s.lineCounterStep = { s with
      sched := { s.sched with hintCounter := if s.sched.hintCounter = 0 then s.vdp.r 10 else s.sched.hintCounter - 1 }
      env := { s.env with events :=
        if s.sched.hintCounter = 0 ∧ s.vdp.hintEnable = true then .assertInterrupt 4 :: s.env.events
        else s.env.events } } := by
  unfold State.lineCounterStep
  dsimp only
  split <;> rename_i h
  · split <;> rename_i k
    · rw [if_pos ⟨h, k⟩]; rfl
    · rw [if_neg (fun c => k c.2)]
  · rw [if_neg (fun c => h c.1)]

theorem foldl_vblank_fb (l : List Nat) (s : State) : (l.foldl State.vblankLine s).fb = s.fb := by
  induction l generalizing s with
  | nil => rfl
  | cons y l ih => rw [List.foldl_cons, ih, vblankLine_fb]

/-- A row no visible line has is left as it was. -/
theorem foldl_visible_row (l : List Nat) (s : State) (i : Nat) (hi : i < 240) (h : i ∉ l) :
    (l.foldl State.visibleLine s).fb[i] = s.fb[i] := by
  induction l generalizing s with
  | nil => rfl
  | cons y l ih =>
    rw [List.mem_cons, not_or] at h
    rw [List.foldl_cons, ih _ h.2, visibleLine_row _ _ _ hi h.1]

end Sys2Proof.Laws
end

