-- ==== Sys2Proof/Tests/Slice0.lean ====
section
/-! SUPPORT. Tests: what WellFormed refuses, words and bytes written out from the spec's encodings, small steps whose
expected values are those of spec/95_test_vectors.md or a hand calculation from the rule named, and a witness for the
hypotheses of each statement that has some. -/

namespace Sys2Proof.Tests

open Sys2Proof.Machine

set_option Elab.async false

/-! ### WellFormed refuses -/

/-! A region row's address outside the row (R148). -/
theorem test_wf_regionRom : (Instr.regionRom 0x400000 .read).wf = false := by decide
theorem test_wf_regionRommirror : (Instr.regionRommirror 0x800000 .read).wf = false := by decide
theorem test_wf_regionRommirror2 : (Instr.regionRommirror2 0xA00000 .read).wf = false := by decide
theorem test_wf_regionSoundram : (Instr.regionSoundram 0xA04000 .read).wf = false := by decide
theorem test_wf_regionSynth : (Instr.regionSynth 0xA06000 .read).wf = false := by decide
theorem test_wf_regionSoundbank : (Instr.regionSoundbank 0xA06100 .read).wf = false := by decide
theorem test_wf_regionSoundvdp : (Instr.regionSoundvdp 0xA07EFF .read).wf = false := by decide
theorem test_wf_regionUnmapped : (Instr.regionUnmapped 0xA060FF .read).wf = false := by decide
theorem test_wf_regionSoundromview : (Instr.regionSoundromview 0xA07FFF .read).wf = false := by decide
theorem test_wf_regionIo : (Instr.regionIo 0xA10020 .read).wf = false := by decide
theorem test_wf_regionBusreq : (Instr.regionBusreq 0xA110FF .read).wf = false := by decide
theorem test_wf_regionSoundreset : (Instr.regionSoundreset 0xA11300 .read).wf = false := by decide
theorem test_wf_regionUnmapped2 : (Instr.regionUnmapped2 0xA1001F .read).wf = false := by decide
theorem test_wf_regionVdp : (Instr.regionVdp 0xBFFFFF .read).wf = false := by decide
theorem test_wf_regionRam : (Instr.regionRam 0xDFFFFF .read).wf = false := by decide
theorem test_wf_regionUnmapped3 : (Instr.regionUnmapped3 0xA10020 .read).wf = false := by decide

/-! A port row's offset outside the port (R151). -/
theorem test_wf_vdpDataPort : (Instr.vdpDataPort 0x04 .read).wf = false := by decide
theorem test_wf_vdpControlPort : (Instr.vdpControlPort 0x08 .read).wf = false := by decide
theorem test_wf_vdpHvPort : (Instr.vdpHvPort 0x07 .read).wf = false := by decide
theorem test_wf_vdpPsgPort : (Instr.vdpPsgPort 0x18 .read).wf = false := by decide
theorem test_wf_vdpUnusedPort : (Instr.vdpUnusedPort 0x17 .read).wf = false := by decide
theorem test_wf_statusRead : (Instr.statusRead 0x03).wf = false := by decide
theorem test_wf_hvRead : (Instr.hvRead 0x10).wf = false := by decide
theorem test_wf_hvWrite : (Instr.hvWrite 0x04 0).wf = false := by decide
theorem test_wf_psgWrite : (Instr.psgWrite 0x0F 0).wf = false := by decide
theorem test_wf_psgRead : (Instr.psgRead 0x18).wf = false := by decide
theorem test_wf_vdpUnused : (Instr.vdpUnused 0x00 .read).wf = false := by decide

/-- A first command word whose bits 15:14 are those of a register write (R142, R144). -/
theorem test_wf_ctrlCmd1 : (Instr.ctrlCmd1 0b10 0).wf = false := by decide

/-! ### Decoding: bus transactions, in the bytes of the request format (log 2) -/

theorem test_decode_read8 : decode resetCtx [0x00, 0x01, 0x00, 0xA1, 0x00] = .ok (.read8 0x00A10001) := by decide
theorem test_decode_read16 : decode resetCtx [0x01, 0x04, 0x00, 0xC0, 0xFF] = .ok (.read16 0xFFC00004) := by decide
theorem test_decode_read32 : decode resetCtx [0x02, 0xFE, 0xFF, 0xFF, 0x00] = .ok (.read32 0x00FFFFFE) := by decide
theorem test_decode_write8 :
    decode resetCtx [0x04, 0x00, 0x60, 0xA0, 0x00, 0x01] = .ok (.write8 0x00A06000 0x01) := by decide
theorem test_decode_write16 :
    decode resetCtx [0x05, 0x00, 0x11, 0xA1, 0x00, 0x00, 0x01] = .ok (.write16 0x00A11100 0x0100) := by decide
theorem test_decode_write32 :
    decode resetCtx [0x06, 0x04, 0x00, 0xC0, 0x00, 0x80, 0x00, 0x00, 0x40] = .ok (.write32 0x00C00004 0x40000080) := by
  decide
theorem test_decode_dmaSourceRead16 :
    decode resetCtx [0x07, 0x00, 0x01, 0xFF] = .ok (.dmaSourceRead16 0xFF0100) := by decide
theorem test_decode_sread8 : decode resetCtx [0x10, 0x05, 0x20] = .ok (.sread8 0x2005) := by decide
theorem test_decode_swrite8 : decode resetCtx [0x11, 0x05, 0x00, 0x42] = .ok (.swrite8 0x0005 0x42) := by decide

/-! ### Decoding: the address rows, at the boundaries of 95_test_vectors.md sections 1.1 and 2.1 -/

theorem test_decode_regionRom : decodeTableWord 24 0b001111111111111111111111 = some (.regionRom 0x3FFFFF .read) := by
  decide
theorem test_decode_regionRommirror :
    decodeTableWord 24 0b010000000000000000000000 = some (.regionRommirror 0x400000 .read) := by decide
theorem test_decode_regionRommirror2 :
    decodeTableWord 24 0b100111111111111111111111 = some (.regionRommirror2 0x9FFFFF .read) := by decide
theorem test_decode_regionSoundram : decodeTableWord 24 0xA03FFF = some (.regionSoundram 0xA03FFF .read) := by decide
theorem test_decode_regionSynth : decodeTableWord 24 0xA04000 = some (.regionSynth 0xA04000 .read) := by decide
theorem test_decode_regionSoundbank : decodeTableWord 24 0xA060FF = some (.regionSoundbank 0xA060FF .read) := by decide
theorem test_decode_regionUnmapped : decodeTableWord 24 0xA06100 = some (.regionUnmapped 0xA06100 .read) := by decide
theorem test_decode_regionSoundvdp : decodeTableWord 24 0xA07F00 = some (.regionSoundvdp 0xA07F00 .read) := by decide
theorem test_decode_regionSoundromview : decodeTableWord 24 0xA0FFFF = some (.regionSoundromview 0xA0FFFF .read) := by
  decide
theorem test_decode_regionIo : decodeTableWord 24 0xA1001F = some (.regionIo 0xA1001F .read) := by decide
theorem test_decode_regionBusreq : decodeTableWord 24 0xA11100 = some (.regionBusreq 0xA11100 .read) := by decide
theorem test_decode_regionSoundreset : decodeTableWord 24 0xA112FF = some (.regionSoundreset 0xA112FF .read) := by decide
theorem test_decode_regionUnmapped2 : decodeTableWord 24 0xA110FF = some (.regionUnmapped2 0xA110FF .read) := by decide
theorem test_decode_regionVdp : decodeTableWord 24 0xDFFFFF = some (.regionVdp 0xDFFFFF .read) := by decide
theorem test_decode_regionRam :
    decode resetCtx [0x21, 0x00, 0x00, 0xE0, 0x5A] = .ok (.regionRam 0xE00000 (.write 0x5A)) := by decide
theorem test_decode_regionUnmapped3 : decodeTableWord 24 0xBFFFFF = some (.regionUnmapped3 0xBFFFFF .read) := by decide

/-! ### Decoding: the port rows (R151) -/

theorem test_decode_vdpDataPort : decode resetCtx [0x31, 0b00011, 0xCD, 0xAB] = .ok (.vdpDataPort 0x03 (.write 0xABCD)) := by
  decide
theorem test_decode_vdpControlPort : decode resetCtx [0x30, 0b00111] = .ok (.vdpControlPort 0x07 .read) := by decide
theorem test_decode_vdpHvPort : decode resetCtx [0x30, 0b01000] = .ok (.vdpHvPort 0x08 .read) := by decide
theorem test_decode_vdpPsgPort : decodeTableWord 8 0b10111 = some (.vdpPsgPort 0x17 .read) := by decide
theorem test_decode_vdpUnusedPort : decodeTableWord 8 0b11000 = some (.vdpUnusedPort 0x18 .read) := by decide
theorem test_decode_statusRead : decode resetCtx [0x32, 0b00100] = .ok (.statusRead 0x04) := by decide
theorem test_decode_hvRead : decode resetCtx [0x32, 0b01111] = .ok (.hvRead 0x0F) := by decide
theorem test_decode_hvWrite : decode resetCtx [0x33, 0b01000, 0x34, 0x12] = .ok (.hvWrite 0x08 0x1234) := by decide
theorem test_decode_psgWrite : decode resetCtx [0x33, 0b10001, 0x9F, 0x00] = .ok (.psgWrite 0x11 0x009F) := by decide
theorem test_decode_psgRead : decode resetCtx [0x32, 0b10000] = .ok (.psgRead 0x10) := by decide
theorem test_decode_vdpUnused : decode resetCtx [0x33, 0b11111, 0x00, 0x00] = .ok (.vdpUnused 0x1F (.write 0)) := by decide
theorem test_decode_vdpByteAccess : decode resetCtx [0x35, 0x11, 0x9F] = .ok (.vdpByteAccess 0x11 (.write 0x9F)) := by decide
theorem test_decode_vdpLongAccess :
    decode resetCtx [0x37, 0x04, 0x03, 0x00, 0x00, 0x40] = .ok (.vdpLongAccess 0x04 (.write 0x40000003)) := by decide

/-! ### Decoding: control words, access codes, DMA triggers, host operations -/

/-- R141: 10 x rrrrr vvvvvvvv. -/
theorem test_decode_ctrlRegwrite : decodeTableWord 16 0b1000111100000010 = some (.ctrlRegwrite 0 15 0x02) := by decide
/-- R142: CD1 CD0 A13..A0. -/
theorem test_decode_ctrlCmd1 : decodeTableWord 16 0b1100000000001010 = some (.ctrlCmd1 0b11 0x000A) := by decide
/-- R143: CD5..CD2 in bits 7:4, A15 A14 in bits 1:0; the rest is kept as ignored bits. -/
theorem test_decode_ctrlCmd2 :
    decode ⟨true, 0x03, false, false, 0⟩ [0x40, 0b10110111, 0b10000001] = .ok (.ctrlCmd2 0x81 0b1011 0b01 0b11) := by
  decide
theorem test_decode_dataWriteVram : decodeTableWord 8 0b0001 = some (.dataWriteVram 0) := by decide
theorem test_decode_dataWriteCram :
    decode ⟨false, 0b100011, false, false, 0⟩ [0x51, 0x00, 0x0E] = .ok (.dataWriteCram 0x0E00) := by decide
theorem test_decode_dataWriteVsram : decodeTableWord 8 0b0101 = some (.dataWriteVsram 0) := by decide
theorem test_decode_dataWriteNotarget : decodeTableWord 8 0b0111 = some (.dataWriteNotarget 0) := by decide
theorem test_decode_dataWriteReadcode :
    decode ⟨false, 0x08, false, false, 0⟩ [0x51, 0xEF, 0xBE] = .ok (.dataWriteReadcode 0xBEEF) := by decide
theorem test_decode_dataReadVram : decodeTableWord 8 0b0000 = some .dataReadVram := by decide
theorem test_decode_dataReadVsram : decodeTableWord 8 0b0100 = some .dataReadVsram := by decide
theorem test_decode_dataReadCram : decodeTableWord 8 0b1000 = some .dataReadCram := by decide
theorem test_decode_dataReadVram8 : decodeTableWord 8 0b1100 = some .dataReadVram8 := by decide
theorem test_decode_dataReadInvalid : decode ⟨false, 0x01, false, false, 0⟩ [0x50] = .ok .dataReadInvalid := by decide
theorem test_decode_dma68k : decode ⟨false, 0x21, false, true, 0b01⟩ [0x60] = .ok .dma68k := by decide
theorem test_decode_dmaFillArm : decode ⟨false, 0x21, false, true, 0b10⟩ [0x60] = .ok .dmaFillArm := by decide
theorem test_decode_dmaCopy : decode ⟨false, 0x30, true, true, 0b11⟩ [0x60] = .ok .dmaCopy := by decide
theorem test_decode_dmaDisabled : decode ⟨false, 0x21, false, false, 0b10⟩ [0x60] = .ok .dmaDisabled := by decide
theorem test_decode_dmaFillFire : decode ⟨false, 0x21, true, true, 0b10⟩ [0x61, 0xCD, 0xAB] = .ok (.dmaFillFire 0xABCD) := by
  decide
theorem test_decode_renderLine : decode resetCtx [0x70, 0xEF] = .ok (.renderLine 239) := by decide
theorem test_decode_runFrame : decode resetCtx [0x71] = .ok .runFrame := by decide
theorem test_decode_reset : decode resetCtx [0x72] = .ok .reset := by decide
theorem test_decode_loadCartridge : decode resetCtx [0x73, 0x12, 0x34] = .ok (.loadCartridge [0x12, 0x34]) := by decide

/-! Requests that are no encoding are rejected by name. -/
theorem test_decode_rejects :
    decode resetCtx [] = .error .emptyRequest ∧ decode resetCtx [0xFF] = .error (.unknownTag 0xFF) ∧
    decode resetCtx [0x60] = .error .noDmaTrigger ∧
    decode resetCtx [0x61, 0, 0] = .error .noFillArmed ∧ decode resetCtx [0x30, 0x20] = .error (.badOffset 0x20) ∧
    decode resetCtx [0x71, 0] = .error (.badLength 0x71) ∧
    decode resetCtx [0x33, 0x04, 0, 0] = .error (.portNeedsItsOwnFormat 0x04) := by decide

/-! ### Steps -/

/-- What an instruction answers, and the state after it. -/
def answered (i : Instr) (s : State) : Option Reply :=
  match exec i s with
  | .next t => some t.env.reply
  | .fault _ => none
  | .refused _ => none

/-- The state after an instruction; the reset state where it gives none. -/
def after (i : Instr) (s : State) : State :=
  match exec i s with
  | .next t => t
  | .fault _ => .reset
  | .refused _ => .reset

/-- The reset state with another VDP. -/
def withVdp (v : VdpState) : State := { State.reset with vdp := v }

/-- The reset VDP with some registers set. -/
def regs (l : List (Fin 32 × Byte)) : VdpState := l.foldl (fun v p => v.setR p.1 p.2) VdpState.reset

/-- The cartridge of 95_test_vectors.md section 2.2. -/
def cart : State := { State.reset with bus := { BusState.powerOn with rom := Memory.ofBytes 0 [0x12, 0x34, 0x56, 0x78], romSize := 4 } }

/-! Primary-bus transactions, section 2.2. -/
theorem test_read8 : answered (.read8 1) cart = some (.byte 0x34) ∧ answered (.read8 4) cart = some (.byte 0xFF) := by
  decide +kernel
theorem test_read16 : answered (.read16 1) cart = some (.word 0x1234) ∧ answered (.read16 0x800002) cart = some (.word 0x5678) := by
  decide +kernel
theorem test_read32 : answered (.read32 2) cart = some (.long 0x5678FFFF) := by decide +kernel
theorem test_write8 : (after (.write8 0xA02005 0x77) .reset).bus.sram = [(0x0005, 0x77)] := by decide +kernel
theorem test_write16 : (after (.write16 0xA00010 0xABCD) .reset).bus.sram = [(0x0010, 0xAB)] := by decide +kernel
theorem test_write16_busreq :
    (after (.write16 0xA11100 0x0100) .reset).bus.busReq = true ∧
    (after (.write16 0xA11100 0x0100) .reset).env.events = [.setBusRequest true] := by decide +kernel
theorem test_write32 : (after (.write32 0xFFFFFE 0xAABBCCDD) cart).bus.wram = [(0xFFFE, 0xAA), (0xFFFF, 0xBB)] := by
  decide +kernel
/-- Row 23: a word write of the I/O region writes the odd byte. -/
theorem test_write16_io : (after (.write16 0xA10002 0x1234) .reset).env.events = [.ioWrite 0x03 0x34] := by decide +kernel

/-! Sound-CPU transactions, section 2.3. -/
theorem test_swrite8_vdp : (after (.swrite8 0x7F04 0x81) .reset).vdp.r 1 = 0x81 := by decide +kernel
theorem test_swrite8_window :
    (after (.swrite8 0x8001 0x55) { State.reset with bus := { BusState.powerOn with bank := 0x1FF } }).bus.wram =
      [(0x8001, 0x55)] := by decide +kernel
theorem test_sread8_sound_window :
    answered (.sread8 0x8000) { State.reset with bus := { BusState.powerOn with bank := 0x140, sram := [(0, 1)] } } =
      some (.byte 0xFF) := by decide +kernel
theorem test_sread8_mirror :
    answered (.sread8 0x2005) { State.reset with bus := { BusState.powerOn with sram := [(5, 0x42)] } } =
      some (.byte 0x42) := by decide +kernel

/-- Section 2.4. -/
theorem test_dmaSourceRead16 :
    answered (.dmaSourceRead16 0xFF0101)
      { State.reset with bus := { BusState.powerOn with wram := [(0x100, 0xAB), (0x101, 0xCD)] } } =
      some (.word 0xABCD) := by decide +kernel

/-! Region rows, sections 2.2 and 2.3. -/
theorem test_regionRom : answered (.regionRom 1 .read) cart = some (.byte 0x34) := by decide +kernel
theorem test_regionRommirror : answered (.regionRommirror 0x400001 .read) cart = some (.byte 0x34) := by decide +kernel
theorem test_regionRommirror2 : answered (.regionRommirror2 0x800003 .read) cart = some (.byte 0x78) := by decide +kernel
theorem test_regionSoundram : (after (.regionSoundram 0xA03FFF (.write 7)) .reset).bus.sram = [(0x1FFF, 7)] := by decide +kernel
theorem test_regionSynth : (after (.regionSynth 0xA04001 (.write 0x2B)) .reset).env.events = [.synthWrite 1 0x2B] := by
  decide +kernel
theorem test_regionSoundbank :
    (after (.regionSoundbank 0xA06000 (.write 1)) { State.reset with bus := { BusState.powerOn with bank := 0x003 } }).bus.bank =
      0x101 := by decide +kernel
theorem test_regionSoundvdp : answered (.regionSoundvdp 0xA07F00 .read) .reset = some (.byte 0xFF) := by decide +kernel
theorem test_regionUnmapped : answered (.regionUnmapped 0xA06100 .read) .reset = some (.byte 0xFF) := by decide +kernel
theorem test_regionSoundromview : answered (.regionSoundromview 0xA08000 .read) .reset = some (.byte 0xFF) := by decide +kernel
theorem test_regionIo : (after (.regionIo 0xA10002 (.write 9)) .reset).env.events = [.ioWrite 0x03 9] := by decide +kernel
theorem test_regionBusreq : (after (.regionBusreq 0xA11101 (.write 1)) .reset).bus.busReq = false := by decide +kernel
theorem test_regionSoundreset :
    (after (.regionSoundreset 0xA11200 (.write 1)) .reset).bus.soundReset = true ∧
    (after (.regionSoundreset 0xA11200 (.write 1)) .reset).env.events = [.setReset false] := by decide +kernel
theorem test_regionUnmapped2 : answered (.regionUnmapped2 0xA10020 .read) .reset = some (.byte 0xFF) := by decide +kernel
theorem test_regionVdp : (after (.regionVdp 0xC00011 (.write 0x9F)) .reset).env.events = [.psgWrite 0x9F] := by decide +kernel
theorem test_regionRam :
    answered (.regionRam 0xE00001 .read) { State.reset with bus := { BusState.powerOn with wram := [(1, 0x34)] } } =
      some (.byte 0x34) := by decide +kernel
theorem test_regionUnmapped3 : answered (.regionUnmapped3 0xA20000 .read) .reset = some (.byte 0xFF) := by decide +kernel

/-! Port rows: a control write with the latch Idle and Pending (R261), sections 2.5 and 2.8. -/
theorem test_vdpControlPort :
    (after (.vdpControlPort 0x04 (.write 0x8A05)) .reset).vdp.r 10 = 0x05 ∧
    (after (.vdpControlPort 0x04 (.write 0x8A05)) (withVdp { VdpState.reset with pending := true })).vdp.addr = 0x4000 := by
  decide +kernel
theorem test_vdpDataPort :
    (after (.vdpDataPort 0x02 (.write 0xBEEF)) (withVdp { VdpState.reset with code := 0x01, addr := 0x30 })).vdp.vram =
      [(0x30, 0xBE), (0x31, 0xEF)] := by decide +kernel
theorem test_vdpHvPort : (after (.vdpHvPort 0x08 (.write 0x1234)) .reset).vdp = VdpState.reset := by decide +kernel
theorem test_vdpPsgPort : (after (.vdpPsgPort 0x10 (.write 0x1234)) .reset).env.events = [.psgWrite 0x34] := by decide +kernel
theorem test_vdpUnusedPort : answered (.vdpUnusedPort 0x18 .read) .reset = some (.word 0xFFFF) := by decide +kernel

/-- Section 1.8: without M5 register 16 is not written. -/
theorem test_ctrlRegwrite_m4 : (after (.ctrlRegwrite 0 16 0xFF) .reset).vdp.r 16 = 0 := by decide +kernel
/-- Section 1.8: with M5 it is; and the latch is cleared of the low code and address bits (R265). -/
theorem test_ctrlRegwrite :
    let t := after (.ctrlRegwrite 0 16 0xFF) (withVdp { regs [(1, 0x04)] with code := 0x23, addr := 0xC00C })
    t.vdp.r 16 = 0xFF ∧ t.vdp.code = 0x20 ∧ t.vdp.addr = 0xC000 := by decide +kernel
theorem test_ctrlCmd1 :
    let t := after (.ctrlCmd1 0b00 0x00FF) (withVdp { VdpState.reset with code := 0x3F, addr := 0xFFFF })
    t.vdp.code = 0x3C ∧ t.vdp.addr = 0xC0FF ∧ t.vdp.pending = true := by decide +kernel
/-- Section 1.2, step 1: the second word 0080 of DMAVRAM 0000 arms the fill. -/
theorem test_ctrlCmd2 :
    let t := after (.ctrlCmd2 0 0b1000 0 0) (withVdp { regs [(1, 0x14), (23, 0x80)] with code := 0x01, pending := true })
    t.vdp.code = 0x21 ∧ t.vdp.fillPending = true ∧ t.vdp.pending = false ∧ t.vdp.vram = [] := by decide +kernel

/-! Data-port writes, section 2.6. -/
theorem test_dataWriteVram_odd :
    let t := after (.dataWriteVram 0x1234) (withVdp { regs [(15, 2)] with code := 1, addr := 0x0001 })
    t.vdp.vram = [(0, 0x34), (1, 0x12)] ∧ t.vdp.addr = 0x0003 := by decide +kernel
theorem test_dataWriteVram_cache :
    (after (.dataWriteVram 0x0080) (withVdp { regs [(5, 0x7C), (15, 2)] with code := 1, addr := 0xF800 })).vdp.satCache =
      [(1, 0x80)] := by decide +kernel
theorem test_dataWriteCram :
    (after (.dataWriteCram 0x0222) (withVdp { regs [(15, 2)] with code := 3, addr := 0x0080 })).vdp.cram[0] = 0x0222 := by
  decide +kernel
theorem test_dataWriteVsram :
    (after (.dataWriteVsram 0x0010) (withVdp { regs [(15, 2)] with code := 5, addr := 0x0002 })).vdp.vsram[1] = 0x0010 := by
  decide +kernel
theorem test_dataWriteNotarget :
    let t := after (.dataWriteNotarget 0xFFFF) (withVdp { regs [(15, 2)] with code := 7, addr := 0x0010 })
    t.vdp.addr = 0x0012 ∧ t.vdp.fifo = #v[0xFFFF, 0, 0, 0] ∧ t.vdp.vram = [] := by decide +kernel
theorem test_dataWriteReadcode :
    let t := after (.dataWriteReadcode 0xBEEF) (withVdp { regs [(15, 2)] with addr := 0x0010 })
    t.vdp.addr = 0x0010 ∧ t.vdp.fifo = #v[0xBEEF, 0, 0, 0] := by decide +kernel

/-! Data-port reads, section 2.7. -/
theorem test_dataReadVram :
    answered .dataReadVram (withVdp { regs [(15, 2)] with addr := 0x0021, vram := [(0x20, 0xAB), (0x21, 0xCD)] }) =
      some (.word 0xABCD) := by decide +kernel
theorem test_dataReadVsram :
    answered .dataReadVsram
      (withVdp { VdpState.reset with code := 4, vsram := VdpState.reset.vsram.set 0 0xFFFF, fifo := #v[0, 0, 0, 0x1234] }) =
      some (.word 0x17FF) := by decide +kernel
theorem test_dataReadCram :
    answered .dataReadCram
      (withVdp { VdpState.reset with code := 8, addr := 10, cram := VdpState.reset.cram.set 5 0x0E00, fifo := #v[0, 0, 0, 0xFFFF] }) =
      some (.word 0xFF11) := by decide +kernel
theorem test_dataReadVram8 :
    answered .dataReadVram8
      (withVdp { VdpState.reset with code := 12, addr := 0x100, vram := [(0x101, 0x5A)], fifo := #v[0, 0, 0, 0x9900] }) =
      some (.word 0x995A) := by decide +kernel
theorem test_dataReadInvalid :
    let t := after .dataReadInvalid (withVdp { regs [(15, 2)] with code := 1, addr := 0x100, pending := true })
    t.vdp.addr = 0x100 ∧ t.vdp.pending = false := by decide +kernel

/-! Status, counter, PSG, unused, section 2.8. -/
theorem test_statusRead : ∀ d : BitVec 6,
    (State.reset.statusWord d).extractLsb' 0 10 = 0x200 ∧ (State.reset.statusWord d).extractLsb' 10 6 = d := by
  decide +kernel
/-- Section 2.8 row 6: VB and F set. -/
theorem test_statusRead_blank : ∀ d : BitVec 6,
    (State.statusWord ((State.reset.setVb true).setF true) d).extractLsb' 0 10 = 0x288 := by decide +kernel
/-- Section 1.6, step 2. -/
theorem test_hvRead : answered (.hvRead 0x08) (withVdp { regs [(0, 0x02)] with hvLatchValue := 0x6401 }) = some (.word 0x6401) := by
  decide +kernel
theorem test_hvWrite : (after (.hvWrite 0x08 0x1234) .reset).vdp = VdpState.reset := by decide +kernel
theorem test_psgWrite : (after (.psgWrite 0x10 0x1234) .reset).env.events = [.psgWrite 0x34] := by decide +kernel
theorem test_psgRead : answered (.psgRead 0x10) .reset = some (.word 0xFFFF) := by decide +kernel
theorem test_vdpUnused : answered (.vdpUnused 0x18 .read) .reset = some (.word 0xFFFF) := by decide +kernel
/-- Section 2.6 row 9. -/
theorem test_vdpByteAccess_write :
    (after (.vdpByteAccess 0x01 (.write 0x5A)) (withVdp { regs [(15, 2)] with code := 1, addr := 0x10 })).vdp.vram =
      [(0x10, 0x5A), (0x11, 0x5A)] := by decide +kernel
/-- Section 2.7 row 9, the second read. -/
theorem test_vdpByteAccess_read :
    answered (.vdpByteAccess 0x01 .read)
      (withVdp { regs [(15, 2)] with addr := 2, vram := [(0, 1), (1, 2), (2, 3), (3, 4)] }) = some (.byte 4) := by decide +kernel
/-- Section 2.7 row 10. -/
theorem test_vdpLongAccess_read :
    answered (.vdpLongAccess 0x00 .read) (withVdp { regs [(15, 2)] with vram := [(0, 1), (1, 2), (2, 3), (3, 4)] }) =
      some (.long 0x01020304) := by decide +kernel
/-- Section 2.6 row 11: a data write, then a register write. -/
theorem test_vdpLongAccess_write :
    let t := after (.vdpLongAccess 0x02 (.write 0xBEEF8F04)) (withVdp { regs [(1, 4), (15, 2)] with code := 1, addr := 0x30 })
    t.vdp.vram = [(0x30, 0xBE), (0x31, 0xEF)] ∧ t.vdp.r 15 = 4 ∧ t.vdp.addr = 0 := by decide +kernel

/-! DMA, sections 2.9 to 2.11. -/
/-- Section 2.9 row 3: the source wraps within its 128 KiB block. -/
theorem test_dma68k :
    let t := after .dma68k { State.reset with
      bus := { BusState.powerOn with wram := [(0, 0xCC), (1, 0xDD), (0xFFFE, 0xAA), (0xFFFF, 0xBB)] }
      vdp := { regs [(1, 0x14), (15, 2), (19, 2), (21, 0xFF), (22, 0xFF), (23, 0x7F)] with code := 0x21 } }
    t.vdp.vram = [(0, 0xAA), (1, 0xBB), (2, 0xCC), (3, 0xDD)] ∧ t.vdp.r 21 = 0x01 ∧ t.vdp.r 22 = 0 ∧ t.vdp.r 23 = 0x7F ∧
    t.vdp.r 19 = 0 := by decide +kernel
theorem test_dmaFillArm :
    let t := after .dmaFillArm (withVdp { regs [(1, 0x14), (19, 4), (23, 0x80)] with code := 0x21 })
    t.vdp.fillPending = true ∧ t.vdp.vram = [] ∧ t.vdp.r 19 = 4 := by decide +kernel
/-- Section 2.10 row 3, the fill after the write at 0x300. -/
theorem test_dmaFillFire :
    let t := after (.dmaFillFire 0x1234)
      (withVdp { regs [(1, 0x14), (15, 2), (19, 3), (23, 0x80)] with code := 0x21, addr := 0x302, fillPending := true })
    t.vdp.vram = [(0x303, 0x12), (0x305, 0x12), (0x307, 0x12)] ∧ t.vdp.addr = 0x308 ∧ t.vdp.fillPending = false := by
  decide +kernel
/-- Section 2.11 row 1: an overlap repeats the pattern. -/
theorem test_dmaCopy :
    let t := after .dmaCopy (withVdp { regs [(1, 0x14), (15, 1), (19, 4), (22, 5), (23, 0xC0)] with
      code := 0x30, addr := 0x502, vram := [(0x500, 0xA1), (0x501, 0xB2)] })
    t.vdp.vram = [(0x500, 0xA1), (0x501, 0xB2), (0x502, 0xA1), (0x503, 0xB2), (0x504, 0xA1), (0x505, 0xB2)] ∧
    t.vdp.r 21 = 4 ∧ t.vdp.r 22 = 5 ∧ t.vdp.addr = 0x506 := by decide +kernel
theorem test_dmaDisabled : (after .dmaDisabled (withVdp (regs [(19, 5), (23, 0x80)]))).vdp = regs [(19, 5), (23, 0x80)] := by
  decide +kernel

/-! The compositor and the host. -/
/-- Section 1.7: pixel (0, 0) has the colour of CRAM entry 5, packed as blue; pixel 1 the backdrop. -/
theorem test_renderLine :
    let t := after (.renderLine 0) (withVdp { regs [(1, 0x44), (2, 0x30)] with
      vram := [(0xA0, 0x50), (0xC001, 0x05)], cram := VdpState.reset.cram.set 5 0x0E00 })
    t.fb[0][0] = 0xFF0000FF ∧ t.fb[0][1] = 0xFF000000 ∧ t.fb[0][256] = 0 := by decide +kernel
/-- R379, R435: no render with the display off, nor of a line that is not visible. -/
theorem test_renderLine_not_rendered :
    (after (.renderLine 0) (withVdp (regs [(7, 1)]))).fb = State.reset.fb ∧
    (after (.renderLine 224) (withVdp { regs [(1, 0x44)] with cram := VdpState.reset.cram.set 0 0x0E00 })).fb[224][0] = 0 := by
  decide +kernel
/-- Section 1.4, first row: the traversal of a link cycle stops at 80. -/
theorem test_spriteQueue_cycle :
    ({ VdpState.reset with satCache := [(1, 0x80), (3, 1), (9, 0x80), (11, 1)] } : VdpState).spriteQueue 0 =
      0 :: List.replicate 79 1 := by decide +kernel
/-- Section 2.14 row 1, the entry line of a frame: VB and F set, one frame interrupt, one tick. -/
theorem test_runFrame_entry :
    let t := State.vblankEntryLine (withVdp (regs [(1, 0x24)])) 224
    t.sched.vb = true ∧ t.sched.f = true ∧ t.sched.curLine = 224 ∧
    t.env.events.count (.assertInterrupt 6) = 1 ∧ t.env.events.count .synthTick = 1 := by decide +kernel
/-- Section 2.14 row 4, a visible line with R10 = 0 and IE1: the line interrupt, HB clear again. -/
theorem test_runFrame_visible :
    let t := State.visibleLine (withVdp (regs [(0, 0x10)])) 0
    t.env.events = [.synthTick, .cpuExecute 84, .assertInterrupt 4, .soundExecute 244, .cpuExecute 404] ∧
    t.sched.hb = false ∧ t.sched.hintCounter = 0 := by decide +kernel
theorem test_reset :
    let t := after .reset { cart with vdp := regs [(1, 0x44)], sched := { SchedState.reset with vb := true } }
    t.bus.romSize = 4 ∧ t.vdp = VdpState.reset ∧ t.sched = SchedState.reset ∧
    t.env.events = [.setReset true, .setBusRequest false] := by decide +kernel
theorem test_loadCartridge :
    let t := after (.loadCartridge [0x00, 0xFF, 0x00, 0x00]) .reset
    t.bus.rom = [(1, 0xFF)] ∧ t.bus.romSize = 4 ∧ t.env.reply = .loaded := by decide +kernel

/-! Section 2.14's table of the V counter. -/
theorem test_vCounter :
    vCounter .ntsc false 235 = 0xE5 ∧ vCounter .ntsc true 261 = 0x05 ∧ vCounter .pal false 259 = 0xCA ∧
    vCounter .pal false 266 = 0xD1 ∧ vCounter .pal true 267 = 0xD2 ∧ vCounter .pal true 312 = 0xFF := by decide

/-! Section 2.14's default PackColor. -/
theorem test_packColor :
    packColor .default 0x0EEE = 0xFFFFFFFF ∧ packColor .default 0x0002 = 0xFF240000 ∧
    packColor .default 0x00E0 = 0xFF00FF00 := by decide

/-! ### A step from a placed word -/

theorem test_step_runs_ctrl_word :
    (match step (State.reset.withFetchWord 16 0x8A05) with
      | .next t => t.vdp.r 10
      | .fault _ => 0
      | .refused _ => 0) = 0x05 := by decide +kernel
theorem test_step_runs_region_word :
    (match step (State.reset.withFetchWord 24 0xA06000) with
      | .next t => t.env.reply
      | .fault _ => .done
      | .refused _ => .done) = .byte 0xFF := by decide +kernel
theorem test_step_idle : step State.reset = .next State.reset := rfl

/-! ### Witnesses: states and operands that meet the hypotheses of the statements -/

theorem test_witness_DecodeOfEncode :
    (Instr.dmaFillFire 0xFFFF).wf = true ∧ (Instr.dmaFillFire 0xFFFF).selectedBy ⟨true, 0x3F, true, true, 3⟩ = true ∧
    (Instr.regionIo 0xA1001F .read).wf = true ∧ (Instr.regionIo 0xA1001F .read).selectedBy resetCtx = true := by decide
theorem test_witness_EncodeOfDecode : decode ⟨false, 0x3F, false, true, 3⟩ [0x60] = .ok .dmaCopy := by decide
theorem test_witness_StepRunsDecoded :
    (State.reset.withRequest [0x71]).env.inbox = [0x71] :: [] ∧
    decode (State.reset.withRequest [0x71]).decodeCtx [0x71] = .ok .runFrame := by decide +kernel
theorem test_witness_StepRunsPlacedInstruction :
    (Instr.ctrlCmd1 0b11 0x3FFF).wf = true ∧ (Instr.ctrlCmd1 0b11 0x3FFF).selectedBy State.reset.decodeCtx = true := by
  decide
theorem test_witness_StepKeepsInv :
    (State.reset.withRequest [0x40, 0x05, 0x8A]).Inv ∧ ∃ t, step (State.reset.withRequest [0x40, 0x05, 0x8A]) = .next t :=
  ⟨by decide +kernel, _, rfl⟩
theorem test_witness_MemoryReadAfterWrite :
    Memory.wf 0x10000 [(0, 1), (0xFFFF, 2)] = true ∧ 0xFFFF < 0x10000 := by decide
theorem test_witness_TransactionsKeepTheRest :
    (∀ y, Instr.dma68k ≠ .renderLine y) ∧ Instr.dma68k ≠ .runFrame ∧ Instr.dma68k ≠ .reset ∧
    ∀ b, Instr.dma68k ≠ .loadCartridge b := ⟨nofun, nofun, nofun, nofun⟩
theorem test_witness_RomChangesOnlyByLoad : (∀ b, Instr.reset ≠ .loadCartridge b) ∧ ∃ t, exec .reset cart = .next t :=
  ⟨nofun, _, rfl⟩
theorem test_witness_SoundRamRegion : State.reset.cfg.soundRamMask = 0x1FFF := rfl
theorem test_witness_BankRegister : [1, 0, 0, 0, 0, 0, 0, 0, (1 : Byte)].length = 9 := rfl
theorem test_witness_BusRequestRegister : (0xA11100 : Addr).getLsbD 0 = false ∧ (0xA111FF : Addr).getLsbD 0 = true := by decide
theorem test_witness_SoundResetRegister : (0xA11200 : Addr).getLsbD 0 = false ∧ (0xA112FF : Addr).getLsbD 0 = true := by decide

/-- WordReads and WordWrites: an address of each region, at the region's end, with bit 0 cleared. -/
theorem test_witness_WordReads_WordWrites :
    ([0x3FFFFF, 0x9FFFFF, 0xA03FFF, 0xA05FFF, 0xA060FF, 0xA07EFF, 0xA07FFF, 0xA0FFFF, 0xA1001F, 0xA111FF, 0xA112FF, 0xDFFFFF,
        0xFFFFFF] : List Long).map (fun a => (addrRow (a.setWidth 24 &&& 0xFFFFFE)).region) =
      [.rom, .romMirror, .soundRam, .synth, .soundBank, .unmapped, .soundVdp, .soundRomView, .io, .busReq, .soundReset, .vdp,
        .ram] := by decide
/-- SoundTransactions: both ends of each range; the bank window inside and next to the sound window. -/
theorem test_witness_SoundTransactions :
    (0x7EFF : Word).toNat < 0x7F00 ∧ (0x7F00 ≤ (0x7FFF : Word).toNat ∧ (0x7FFF : Word).toNat < 0x8000) ∧
    ((0x140#9) ++ (0x8000 : Word).extractLsb' 0 15).toNat = 0xA00000 ∧
    ((0x141#9) ++ (0xFFFF : Word).extractLsb' 0 15).toNat = 0xA0FFFF ∧
    ((0x13F#9) ++ (0xFFFF : Word).extractLsb' 0 15).toNat = 0x9FFFFF ∧
    ((0x142#9) ++ (0x8000 : Word).extractLsb' 0 15).toNat = 0xA10000 := by decide
theorem test_witness_DmaSourceRead :
    ([0x3FFFFF, 0x9FFFFF, 0xFFFFFF, 0xA00000] : List Addr).map (fun a => (addrRow (a &&& 0xFFFFFE)).region) =
      [.rom, .romMirror, .ram, .soundRam] := by decide
/-- PortDispatch: both ends of each port's range, both latch states and both kinds of word. -/
theorem test_witness_PortDispatch :
    (0x03 : BitVec 5).toNat < 0x04 ∧ (0x04 ≤ (0x04 : BitVec 5).toNat ∧ (0x07 : BitVec 5).toNat < 0x08) ∧
    (0x08 ≤ (0x08 : BitVec 5).toNat ∧ (0x0F : BitVec 5).toNat < 0x10) ∧
    (0x10 ≤ (0x10 : BitVec 5).toNat ∧ (0x17 : BitVec 5).toNat < 0x18) ∧ 0x18 ≤ (0x1F : BitVec 5).toNat ∧
    (withVdp { VdpState.reset with pending := true }).vdp.pending = true ∧ State.reset.vdp.pending = false ∧
    (0xBFFF : Word).extractLsb' 14 2 = 0b10 ∧ (0xC000 : Word).extractLsb' 14 2 ≠ 0b10 := by decide +kernel
/-- PortDispatch: a code of each class, with bits 5:4 set or not. -/
theorem test_witness_PortDispatch_codes :
    ([0x30, 0x04, 0x28, 0x1C, 0x02, 0x3F] : List (BitVec 6)).map decodeDataRead =
      [.dataReadVram, .dataReadVsram, .dataReadCram, .dataReadVram8, .dataReadInvalid, .dataReadInvalid] ∧
    ([0x21, 0x13, 0x05, 0x07, 0x0F, 0x0C] : List (BitVec 6)).map (decodeDataWrite · 7) =
      [.dataWriteVram 7, .dataWriteCram 7, .dataWriteVsram 7, .dataWriteNotarget 7, .dataWriteNotarget 7,
        .dataWriteReadcode 7] := by decide
theorem test_witness_SecondCommandWord :
    (0b0111 : BitVec 4).getLsbD 3 = false ∧ (State.reset.vdp.r 1).getLsbD 4 = false ∧ (0b1000 : BitVec 4).getLsbD 3 = true ∧
    ((regs [(1, 0x10)]).r 1).getLsbD 4 = true ∧ ((regs [(23, 0x7F)]).r 23).getLsbD 7 = false ∧
    ((regs [(23, 0xBF)]).r 23).extractLsb' 6 2 = 0b10 ∧ ((regs [(23, 0xC0)]).r 23).extractLsb' 6 2 = 0b11 := by decide +kernel
/-- DataWriteVram, DataWriteCramVsram, DataWriteWithoutTarget. -/
theorem test_witness_no_fill_armed : State.reset.vdp.fillPending = false := rfl
/-- ArmedFillSurvives: the data port's window ends, on both buses. -/
theorem test_witness_ArmedFillSurvives :
    (addrRow 0xC00003).region = .vdp ∧ (0xC00003 : Addr).toNat % 32 < 4 ∧ ¬(0xC00004 : Addr).toNat % 32 < 4 ∧
    (addrRow 0xBFFFFE).region ≠ .vdp ∧ (addrRow (0xBFFFFE + 2)).region = .vdp ∧
    (0x7F03 : Word).toNat % 32 < 4 ∧ ¬(0x7F04 : Word).toNat % 32 < 4 ∧ 0x7F00 ≤ (0x7F03 : Word).toNat ∧
    (addrRow ((0x180#9) ++ (0x8000 : Word).extractLsb' 0 15)).region = .vdp := by decide
/-- DataWriteFiresFill, ArmedFillSurvives. -/
theorem test_witness_fill_armed : (withVdp { VdpState.reset with fillPending := true }).vdp.fillPending = true := rfl
theorem test_witness_CounterPsgUnused : ((regs [(0, 0x02)]).r 0).getLsbD 1 = true ∧ (VdpState.reset.r 0).getLsbD 1 = false := by
  decide +kernel
/-- VCounterTable: both ends of each clause's range. -/
theorem test_witness_VCounterTable :
    (vCounter .ntsc false 234).toNat = 234 ∧ (vCounter .ntsc false 235).toNat = 0xE5 ∧
    (vCounter .ntsc false 261).toNat = 0xFF ∧ (vCounter .ntsc true 261).toNat = 5 ∧ (vCounter .pal false 258).toNat = 2 ∧
    (vCounter .pal false 259).toNat = 0xCA ∧ (vCounter .pal true 266).toNat = 0x0A ∧ (vCounter .pal true 267).toNat = 0xD2 ∧
    (vCounter .pal true 312).toNat = 0xFF := by decide
/-- FillFire: a cell inside the fill under each target code, and one outside it. -/
theorem test_witness_FillFire :
    (0x21 : BitVec 6) &&& 0x0F = 0x01 ∧ (0x23 : BitVec 6) &&& 0x0F = 0x03 ∧ (0x25 : BitVec 6) &&& 0x0F = 0x05 ∧
    (∃ j, j < 65536 ∧ 1 = (((0 : Word) + BitVec.ofNat 16 j * ((regs [(15, 1)]).r 15).setWidth 16) ^^^ 1).toNat) ∧
    0 < (regs [(12, 1)]).satSize ∧ VdpState.reset.satBase.toNat + 1 = 1 := by
  refine ⟨by decide, by decide, by decide, ⟨0, by decide, by decide +kernel⟩, by decide +kernel, by decide +kernel⟩
/-- CopyRoundTrip: no source written before it is read, a destination 2 bytes ahead of the source, a source byte that byte 0
has written, and a destination inside the sprite window. -/
theorem test_witness_CopyRoundTrip :
    let v : VdpState := { regs [(15, 1), (19, 2), (22, 5)] with addr := 0x600 }
    v.r 15 = 1 ∧ ∀ j k, j < k → k < v.dmaLength →
      (v.r 22 ++ v.r 21) + BitVec.ofNat 16 k ≠ v.addr + BitVec.ofNat 16 j := by
  refine ⟨by decide +kernel, fun j k hj hk => ?_⟩
  replace hk : k < 2 := lt_of_lt_of_eq hk (by decide +kernel)
  obtain ⟨rfl, rfl⟩ : j = 0 ∧ k = 1 := by omega
  decide +kernel
theorem test_witness_CopyRoundTrip_overlap :
    let v : VdpState := { regs [(15, 1), (19, 4), (22, 5)] with addr := 0x502 }
    v.addr = (v.r 22 ++ v.r 21) + BitVec.ofNat 16 2 * (v.r 15).setWidth 16 ∧ v.dmaLength + 2 ≤ 65536 ∧ 2 < v.dmaLength ∧
    v.addr + BitVec.ofNat 16 0 * (v.r 15).setWidth 16 = (v.r 22 ++ v.r 21) + BitVec.ofNat 16 2 * (v.r 15).setWidth 16 ∧
    0x103 < (regs [(5, 2)]).satSize ∧ (regs [(5, 2)]).satBase.toNat + 0x102 = v.addr.toNat := by decide +kernel
/-- CpuCopyMovesWords: each target's code; a word no later one overwrites (n = 1, or increment 2); each kind of source; the
last case's registers. -/
theorem test_witness_CpuCopyMovesWords :
    let v : VdpState := { regs [(15, 2), (19, 0), (20, 0x80), (23, 0x7F)] with code := 0x21, addr := 0xFFFE }
    v.code &&& 0x0F = 0x01 ∧ v.r 15 = 2 ∧ v.addr.getLsbD 0 = false ∧ (v.r 23).extractLsb' 4 3 = 0b111 ∧
    v.dmaLength ≤ 32768 ∧ (0x23 : BitVec 6) &&& 0x0F = 0x03 ∧ (0x25 : BitVec 6) &&& 0x0F = 0x05 ∧
    (regs [(19, 1)]).dmaLength = 1 := by decide +kernel
theorem test_witness_CpuCopyMovesWords_sources :
    ([0x00, 0x20, 0x50, 0x7F] : List Nat).map (fun r => (addrRow (BitVec.ofNat 24 (r * 0x20000) &&& 0xFFFFFE)).region) =
      [.rom, .romMirror, .soundRam, .ram] := by decide
theorem test_witness_RunsInCommon : Instr.dmaFillFire 7 ∈ [Instr.dma68k, .dmaCopy, .dmaFillFire 7] := by decide
theorem test_witness_SpriteCacheFollowsVram : VdpState.reset.CacheCoherent := fun _ _ => rfl
/-- RenderLineWritesItsRow: the last visible line, the first that is not, and the display off. -/
theorem test_witness_RenderLineWritesItsRow :
    (((regs [(1, 0x48)]).r 1).getLsbD 6 && decide ((239 : Byte).toNat < 240)) = true ∧
    (((regs [(1, 0x40)]).r 1).getLsbD 6 && decide ((224 : Byte).toNat < 224)) = false ∧
    ((VdpState.reset.r 1).getLsbD 6 && decide ((0 : Byte).toNat < 224)) = false := by decide +kernel
theorem test_witness_RenderIdempotent : ∃ t, exec (.renderLine 239) State.reset = .next t := ⟨_, rfl⟩
/-- WindowReplacesPlaneA: a band from the top, a band to the bottom, a split, and no window. -/
theorem test_witness_WindowReplacesPlaneA :
    (regs [(18, 0x01)]).inWindow 255 7 = true ∧ (regs [(18, 0x01)]).inWindow 255 8 = false ∧
    (regs [(18, 0x9B)]).inWindow 319 216 = true ∧ (regs [(17, 0x81), (18, 0x9B)]).inWindow 15 215 = false ∧
    (regs [(17, 0x81), (18, 0x9B)]).inWindow 16 215 = true ∧ VdpState.reset.inWindow 0 0 = false := by decide +kernel
theorem test_witness_PixelIsTopmostLayer :
    let v : VdpState := { regs [(1, 0x44)] with satCache := [(1, 0x80), (2, 0x05)], vram := [(7, 0x80)] }
    v.spriteOnLine 0 15 = true ∧ v.spriteX 0 = 0x80 ∧ v.spriteW 0 = 2 ∧ v.spriteH 0 = 2 := by decide +kernel
theorem test_witness_SpriteTraversalBounded :
    ({ VdpState.reset with satCache := [(1, 0x80)] } : VdpState).spriteOnLine 0 7 = true ∧
    ({ VdpState.reset with satCache := [(1, 0x80)] } : VdpState).spriteLink 0 = 0 ∧
    ({ VdpState.reset with satCache := [(1, 0x80)] } : VdpState).spriteOnLine 0 8 = false := by decide +kernel
/-- The reset state with a primary CPU that issues one read in each budget of a frame. -/
def polling (a : Long) : State :=
  { State.reset with env := { State.reset.env with cpuScript := List.replicate (262 + 224 + 1) [.read16 a] } }
/-- FrameLeavesFlags: the polled ports, the latch off, the sound CPU idle. -/
theorem test_witness_FrameLeavesFlags_polling :
    (∀ a, (polling a).env.cpuScript =
      List.replicate (totalLines (polling a).cfg.region + (if ((polling a).vdp.r 1).getLsbD 3 then 240 else 224) + 1)
        [.read16 a]) ∧
    (∀ a, (polling a).env.soundScript = []) ∧ (State.reset.vdp.r 0).getLsbD 1 = false := by
  refine ⟨fun a => ?_, fun _ => rfl, by decide +kernel⟩
  have h : totalLines (polling a).cfg.region + (if ((polling a).vdp.r 1).getLsbD 3 then 240 else 224) + 1 = 262 + 224 + 1 := by
    show 262 + (if (State.reset.vdp.r 1).getLsbD 3 then 240 else 224) + 1 = _
    decide +kernel
  rw [h]
  rfl
/-- The counter a budget's reads give is that of the line (section 2.14, row 2); both budgets of a line are polled. -/
theorem test_runFrame_polling :
    (State.visibleLine (polling 0xC00008) 5).vLive = 5 ∧ (State.visibleActive (polling 0xC00008) 5).vLive = 5 ∧
    (State.vblankEntryLine (polling 0xC00008) 224).vLive = 224 ∧
    ((State.visibleLine (polling 0xC00008) 5).env.events.filterMap Event.wordSeen).length = 2 := by decide +kernel
theorem test_witness_FrameLeavesFlags : State.reset.vdp.height ≤ 224 ∧ (regs [(1, 0x08)]).height = 240 := by decide +kernel
theorem test_witness_FrameTicksAndCycles : State.reset.cfg.cpuVblankEntryCycles ≤ cpuLineCycles State.reset.cfg := by decide
/-- LineInterruptCadence: a step at 0 and one above it. FrameInterrupt: a line with the display on. -/
theorem test_witness_lines :
    (State.lineCounterStep (withVdp (regs [(0, 0x10), (10, 3)]))).sched.hintCounter = 3 ∧
    (State.lineCounterStep { State.reset with sched := { SchedState.reset with hintCounter := 7 } }).sched.hintCounter = 6 ∧
    ((State.visibleLine (withVdp { regs [(1, 0x44)] with cram := VdpState.reset.cram.set 0 0x0E00 }) 239).vdp.r 1).getLsbD 6 =
      true := by decide +kernel
/-- LineInterruptCadence, FrameInterrupt. -/
theorem test_witness_CpusIdle :
    State.reset.CpusIdle ∧ (State.reset.vdp.r 1).getLsbD 6 = false ∧ ((regs [(1, 0x44)]).r 1).getLsbD 6 = true := by
  decide +kernel
theorem test_witness_LoadCartridge :
    0x400000 < (List.replicate 0x400001 (0 : Byte)).length ∧ (List.replicate 0x400000 (0 : Byte)).length ≤ 0x400000 := by
  rw [List.length_replicate, List.length_replicate]; decide

end Sys2Proof.Tests
end

section
/-! PROOFS. The statements of 00_scope.md: a step runs what its request decodes to (O5, O6), every instruction completes
(O8), and the byte memories read back what was written (O11). -/

namespace Sys2Proof.Proofs

open Sys2Proof.Machine Sys2Proof.Laws

/-! ### One step -/

/-- The step with a request waiting: the first one is taken off the queue and served. -/
theorem step_of_inbox {s : State} {q : Request} {rest : List Request} (h : s.env.inbox = q :: rest) :
    step s = serve q { s with env := { s.env with inbox := rest } } := by
  unfold step State.dequeued
  rw [h]
  rfl

/-- Placing a request and stepping serves that request in the state it was placed in. -/
theorem step_withRequest (s : State) (q : Request) : step (s.withRequest q) = serve q s :=
  step_of_inbox (withRequest_inbox s q)

theorem serve_of_decode {s : State} {q : Request} {i : Instr} (h : decode s.decodeCtx q = .ok i) :
    serve q s = exec i s := by
  unfold serve
  rw [h]

/-- Settles O5: the decoding context does not see the queue, so taking the request off leaves its decode as it was. -/
theorem stepRunsDecoded : Obligations.StepRunsDecoded := by
  intro s q rest i hq hd
  rw [step_of_inbox hq]
  exact serve_of_decode hd

/-! ### Decoding an encoding -/

theorem atEnd_nil (t : Tag) (x : Except DecodeError Instr) : atEnd t [] x = x := rfl

theorem takeWord_bytes_nil (t : Tag) (v : Word) (k : Word → List Byte → Except DecodeError Instr) :
    takeWord t (bytes16 v) k = k v [] := takeWord_bytes t v [] k

theorem takeAddr_bytes_nil (t : Tag) (a : Addr) (k : Addr → List Byte → Except DecodeError Instr) :
    takeAddr t (bytes24 a) k = k a [] := takeAddr_bytes t a [] k

theorem takeLong_bytes_nil (t : Tag) (a : Long) (k : Long → List Byte → Except DecodeError Instr) :
    takeLong t (bytes32 a) k = k a [] := takeLong_bytes t a [] k

/-! One lemma per request format: what the decoder reads from it, before any condition on the operands or the context. -/

theorem decode_encodeAddr (c : DecodeCtx) (a : Addr) (acc : Access 8) :
    decode c (encodeAddr a acc) = .ok (decodeAddr a acc) := by
  cases acc with
  | read => simp only [encodeAddr, decode_tag, decodeArgs, takeAddr_bytes_nil, atEnd_nil]
  | write v => simp only [encodeAddr, decode_tag, decodeArgs, takeAddr_bytes, takeByte_cons, atEnd_nil]

theorem decode_encodePort (c : DecodeCtx) (off : BitVec 5) (acc : Access 16) :
    decode c (encodePort off acc) = .ok (decodePort off acc) := by
  cases acc with
  | read => simp only [encodePort, decode_tag, decodeArgs, takeOffset_offByte, atEnd_nil]
  | write v => simp only [encodePort, decode_tag, decodeArgs, takeOffset_offByte, takeWord_bytes_nil, atEnd_nil]

theorem decode_encodeAccess_read (c : DecodeCtx) (off : BitVec 5) :
    decode c (encodeAccess off .read) = decodePortRead off := by
  simp only [encodeAccess, decode_tag, decodeArgs, takeOffset_offByte, atEnd_nil]

theorem decode_encodeAccess_write (c : DecodeCtx) (off : BitVec 5) (v : Word) :
    decode c (encodeAccess off (.write v)) = decodePortWrite off v := by
  simp only [encodeAccess, decode_tag, decodeArgs, takeOffset_offByte, takeWord_bytes_nil, atEnd_nil]

theorem decode_encodeCtrl (c : DecodeCtx) (w : Word) : decode c (encodeCtrl w) = .ok (decodeCtrl c.pending w) := by
  simp only [encodeCtrl, decode_tag, decodeArgs, takeWord_bytes_nil, atEnd_nil]

theorem decode_encodeDataWrite (c : DecodeCtx) (v : Word) :
    decode c (encodeDataWrite v) = .ok (decodeDataWrite c.code v) := by
  simp only [encodeDataWrite, decode_tag, decodeArgs, takeWord_bytes_nil, atEnd_nil]

theorem decode_dataRead (c : DecodeCtx) : decode c [Tag.dataRead.byte] = .ok (decodeDataRead c.code) := by
  simp only [decode_tag, decodeArgs, atEnd_nil]

theorem decode_dmaTrigger (c : DecodeCtx) : decode c [Tag.dmaTrigger.byte] = decodeDma c := by
  simp only [decode_tag, decodeArgs, atEnd_nil]

/-! The three control words, in the latch state that selects them. -/

theorem decodeCtrl_regWriteWord (x : BitVec 1) (r : BitVec 5) (v : Byte) :
    decodeCtrl false (regWriteWord x r v) = .ctrlRegwrite x r v := by
  obtain ⟨hmark, hx, hr, hv⟩ := regWriteWord_fields x r v
  simp [decodeCtrl, hmark, hx, hr, hv]

theorem decodeCtrl_cmd1Word {cd10 : BitVec 2} (h : cd10 ≠ 0b10) (a : BitVec 14) :
    decodeCtrl false (cmd1Word cd10 a) = .ctrlCmd1 cd10 a := by
  obtain ⟨hcd, ha⟩ := cmd1Word_fields cd10 a
  simpa [decodeCtrl, hcd, ha] using h

theorem decodeCtrl_cmd2Word (x : Byte) (cd52 : BitVec 4) (y a : BitVec 2) :
    decodeCtrl true (cmd2Word x cd52 y a) = .ctrlCmd2 x cd52 y a := by
  obtain ⟨hx, hcd, hy, ha⟩ := cmd2Word_fields x cd52 y a
  simp [decodeCtrl, hx, hcd, hy, ha]

/-- Decoding the encoding of a well-formed instruction whose row the context selects gives it back. The rows fall into the
request formats: those with a tag of their own need no condition, the others are told apart by the row their operand matches
(`wf`) or the one the context selects (`selectedBy`). -/
theorem decode_encode (c : DecodeCtx) (i : Instr) (hw : i.wf = true) (hs : i.selectedBy c = true) :
    decode c (encode i) = .ok i := by
  cases i
  case read8 | read16 | read32 | write8 | write16 | write32 | sread8 | swrite8 | dmaSourceRead16 | renderLine | runFrame
      | reset | loadCartridge =>
    simp only [encode, decode_tag, decodeArgs, takeLong_bytes, takeLong_bytes_nil, takeAddr_bytes_nil, takeWord_bytes,
      takeWord_bytes_nil, takeByte_cons, atEnd_nil]
  case vdpByteAccess off acc | vdpLongAccess off acc =>
    cases acc <;>
      simp only [encode, decode_tag, decodeArgs, takeOffset_offByte, takeByte_cons, takeLong_bytes_nil, atEnd_nil]
  case regionRom | regionRommirror | regionRommirror2 | regionSoundram | regionSynth | regionSoundbank | regionSoundvdp
      | regionUnmapped | regionSoundromview | regionIo | regionBusreq | regionSoundreset | regionUnmapped2 | regionVdp
      | regionRam | regionUnmapped3 =>
    simp only [Instr.wf, beq_iff_eq] at hw
    simp only [encode, decode_encodeAddr, decodeAddr, hw]
  case vdpDataPort | vdpControlPort | vdpHvPort | vdpPsgPort | vdpUnusedPort =>
    simp only [Instr.wf, beq_iff_eq] at hw
    simp only [encode, decode_encodePort, decodePort, hw]
  case statusRead | hvRead | psgRead =>
    simp only [Instr.wf, beq_iff_eq] at hw
    simp only [encode, decode_encodeAccess_read, decodePortRead, hw]
  case hvWrite | psgWrite =>
    simp only [Instr.wf, beq_iff_eq] at hw
    simp only [encode, decode_encodeAccess_write, decodePortWrite, hw]
  case vdpUnused off acc =>
    simp only [Instr.wf, beq_iff_eq] at hw
    cases acc with
    | read => simp only [encode, decode_encodeAccess_read, decodePortRead, hw]
    | write v => simp only [encode, decode_encodeAccess_write, decodePortWrite, hw]
  case ctrlRegwrite x r v =>
    simp only [Instr.selectedBy, Bool.not_eq_true'] at hs
    simp only [encode, decode_encodeCtrl, hs, decodeCtrl_regWriteWord]
  case ctrlCmd1 cd10 a =>
    simp only [Instr.selectedBy, Bool.not_eq_true'] at hs
    simp only [encode, decode_encodeCtrl, hs, decodeCtrl_cmd1Word (bne_iff_ne.mp hw)]
  case ctrlCmd2 x cd52 y a =>
    simp only [Instr.selectedBy] at hs
    simp only [encode, decode_encodeCtrl, hs, decodeCtrl_cmd2Word]
  case dataWriteVram | dataWriteCram | dataWriteVsram | dataWriteNotarget | dataWriteReadcode =>
    simp only [Instr.selectedBy, beq_iff_eq] at hs
    simp only [encode, decode_encodeDataWrite, decodeDataWrite, hs]
  case dataReadVram | dataReadVsram | dataReadCram | dataReadVram8 | dataReadInvalid =>
    simp only [Instr.selectedBy, beq_iff_eq] at hs
    simp only [encode, decode_dataRead, decodeDataRead, hs]
  case dma68k | dmaFillArm | dmaCopy =>
    simp only [Instr.selectedBy, Bool.and_eq_true, beq_iff_eq] at hs
    obtain ⟨⟨hcode, henable⟩, hmode⟩ := hs
    simp only [encode, decode_dmaTrigger, decodeDma, hcode, henable, hmode, if_true]
  case dmaDisabled =>
    simp only [Instr.selectedBy, Bool.and_eq_true, Bool.not_eq_true'] at hs
    obtain ⟨hcode, henable⟩ := hs
    simp only [encode, decode_dmaTrigger, decodeDma, hcode, henable, if_true, Bool.false_eq_true, if_false]
  case dmaFillFire v =>
    simp only [Instr.selectedBy] at hs
    simp only [encode, decode_tag, decodeArgs, takeWord_bytes_nil, atEnd_nil, hs, if_true]

/-- Settles O6: the placed request decodes back to the instruction, and what is served is run. -/
theorem stepRunsPlacedInstruction : Obligations.StepRunsPlacedInstruction := by
  intro s i hw hs
  rw [step_withRequest]
  exact serve_of_decode (decode_encode s.decodeCtx i hw hs)

/-! ### Every row answers a next state -/

/-- A recorded reply is outside the bus frame. -/
theorem busFrame_replied {s t : State} (h : s.BusFrame t) (r : Reply) : s.BusFrame (t.replied r) :=
  ⟨h.cfg, h.rom, h.romSize, h.sched, h.fb, h.inbox, h.cpuScript, h.soundScript, h.draws, h.called⟩

/-- The VDP is outside the bus frame. -/
theorem busFrame_vdp (s : State) (v : VdpState) : s.BusFrame { s with vdp := v } :=
  ⟨rfl, rfl, rfl, rfl, rfl, rfl, rfl, rfl, Nat.le_refl _, [], rfl, by simp⟩

/-- The outcome is a next state within the bus frame of `s`. -/
def AnswersInFrame (s : State) (o : Host.Outcome State Fault Refusal) : Prop := ∃ t, o = .next t ∧ s.BusFrame t

theorem answersInFrame_answer {s t : State} (h : s.BusFrame t) (r : Reply) : AnswersInFrame s (answer t r) :=
  ⟨_, rfl, busFrame_replied h r⟩

theorem answersInFrame_finish {s t : State} (h : s.BusFrame t) : AnswersInFrame s (finish t) :=
  answersInFrame_answer h .done

/-- A byte store keeps the frame at every address: unlike the canonical form of the sound RAM, the frame does not ask that
the address lies in the region. -/
theorem busFrame_wr8 (s : State) (r : Region) (a : Addr) (b : Byte) : s.BusFrame (s.wr8 r a b) := by
  by_cases hr : r = .soundRam
  · subst hr
    exact ⟨rfl, rfl, rfl, rfl, rfl, rfl, rfl, rfl, Nat.le_refl _, [], rfl, by simp⟩
  · exact (busStep_wr8 s r a b fun h => absurd h hr).toBusFrame

theorem answersInFrame_regionAccess (s : State) (r : Region) (a : Addr) (acc : Access 8) :
    AnswersInFrame s (s.regionAccess r a acc) := by
  cases acc with
  | read => exact answersInFrame_answer (busStep_rd8 s r a).toBusFrame _
  | write b => exact answersInFrame_finish (busFrame_wr8 s r a b)

theorem answersInFrame_portAccess (s : State) (off : BitVec 5) (acc : Access 16) :
    AnswersInFrame s (s.portAccess off acc) := by
  cases acc with
  | read => exact answersInFrame_answer (portStep_vdpRead16 s off).toBusFrame _
  | write v => exact answersInFrame_finish (portStep_vdpWrite16 s off v).toBusFrame

theorem answersInFrame_vdpUnused (s : State) (acc : Access 16) : AnswersInFrame s (execVdpUnused acc s) := by
  cases acc with
  | read => exact answersInFrame_answer (busFrame_refl s) _
  | write v => exact answersInFrame_finish (busFrame_refl s)

theorem answersInFrame_vdpByteAccess (s : State) (off : BitVec 5) (acc : Access 8) :
    AnswersInFrame s (execVdpByteAccess off acc s) := by
  cases acc with
  | read => exact answersInFrame_answer (portStep_vdpRead8 s off).toBusFrame _
  | write b => exact answersInFrame_finish (portStep_vdpWrite8 s off b).toBusFrame

theorem answersInFrame_vdpLongAccess (s : State) (off : BitVec 5) (acc : Access 32) :
    AnswersInFrame s (execVdpLongAccess off acc s) := by
  cases acc with
  | read => exact answersInFrame_answer (portStep_vdpRead32 s off).toBusFrame _
  | write v => exact answersInFrame_finish (portStep_vdpWrite32 s off v).toBusFrame

/-- Every row but the host's four answers a next state within the bus frame. -/
theorem exec_answersInFrame (i : Instr) (s : State) (hline : ∀ y, i ≠ .renderLine y) (hframe : i ≠ .runFrame)
    (hreset : i ≠ .reset) (hload : ∀ b, i ≠ .loadCartridge b) : AnswersInFrame s (exec i s) := by
  cases i
  case renderLine y => exact absurd rfl (hline y)
  case runFrame => exact absurd rfl hframe
  case reset => exact absurd rfl hreset
  case loadCartridge b => exact absurd rfl (hload b)
  case read8 | read16 | read32 | write8 | write16 | write32 =>
    exact answersInFrame_answer (busStep_busOp s _).toBusFrame _
  case sread8 | swrite8 => exact answersInFrame_answer (busStep_soundOp s _).toBusFrame _
  case dmaSourceRead16 src => exact answersInFrame_answer (portStep_dmaSourceRead16 s src).toBusFrame _
  case regionRom a acc | regionRommirror a acc | regionRommirror2 a acc | regionSoundram a acc | regionSynth a acc
      | regionSoundbank a acc | regionSoundvdp a acc | regionUnmapped a acc | regionSoundromview a acc | regionIo a acc
      | regionBusreq a acc | regionSoundreset a acc | regionUnmapped2 a acc | regionVdp a acc | regionRam a acc
      | regionUnmapped3 a acc =>
    exact answersInFrame_regionAccess s _ a acc
  case vdpDataPort off acc | vdpControlPort off acc | vdpHvPort off acc | vdpPsgPort off acc | vdpUnusedPort off acc =>
    exact answersInFrame_portAccess s off acc
  case ctrlRegwrite x r v => exact answersInFrame_finish (portStep_regWrite s r v).toBusFrame
  case ctrlCmd2 x cd52 y a => exact answersInFrame_finish (portStep_cmdWord2 s cd52 a).toBusFrame
  case ctrlCmd1 | dataWriteVram | dataWriteCram | dataWriteVsram | dataWriteNotarget | dataWriteReadcode | dmaFillArm
      | dmaFillFire | dmaCopy =>
    exact answersInFrame_finish (busFrame_vdp s _)
  case dataReadVram | dataReadVsram | dataReadCram | dataReadVram8 => exact answersInFrame_answer (busFrame_vdp s _) _
  case dataReadInvalid => exact answersInFrame_answer (portStep_readInvalid s).toBusFrame _
  case statusRead => exact answersInFrame_answer (portStep_statusRead s).toBusFrame _
  case hvRead => exact answersInFrame_answer (portStep_hvRead s).toBusFrame _
  case psgWrite off v => exact answersInFrame_finish (portStep_psgWrite s v).toBusFrame
  case psgRead => exact answersInFrame_answer (busFrame_refl s) _
  case hvWrite | dmaDisabled => exact answersInFrame_finish (busFrame_refl s)
  case vdpUnused off acc => exact answersInFrame_vdpUnused s acc
  case vdpByteAccess off acc => exact answersInFrame_vdpByteAccess s off acc
  case vdpLongAccess off acc => exact answersInFrame_vdpLongAccess s off acc
  case dma68k => exact answersInFrame_finish (portStep_dma68k s).toBusFrame

/-! ### The parameters, the queue and the draws -/

/-- A requested line is a render or nothing. -/
theorem lineStep_renderVisible (s : State) (y : Nat) : LineStep s (s.renderVisible y) := by
  rw [renderVisible_eq]
  split
  exacts [(LineStep.refl s).renderLine y, LineStep.refl s]

/-- `t` has the parameters and the queue of `s`, and no fewer draws made. -/
structure KeepsEnvironment (s t : State) : Prop where
  cfg : t.cfg = s.cfg
  inbox : t.env.inbox = s.env.inbox
  draws : s.env.draws ≤ t.env.draws

theorem KeepsEnvironment.refl (s : State) : KeepsEnvironment s s := ⟨rfl, rfl, Nat.le_refl _⟩

theorem keepsEnvironment_of_busFrame {s t : State} (h : s.BusFrame t) : KeepsEnvironment s t := ⟨h.cfg, h.inbox, h.draws⟩

theorem keepsEnvironment_renderVisible (s : State) (y : Nat) : KeepsEnvironment s (s.renderVisible y) :=
  have h := lineStep_renderVisible s y
  ⟨h.cfg, h.inbox, h.draws⟩

/-- The frame's start writes the scheduler only, so what its lines keep of `s.frameStart` they keep of `s`. -/
theorem keepsEnvironment_runFrame (s : State) : KeepsEnvironment s s.runFrame :=
  have h := lineStep_runFrame s
  ⟨h.cfg.trans (frameStart_cfg s), h.inbox.trans (congrArg EnvState.inbox (frameStart_env s)), h.draws⟩

theorem keepsEnvironment_resetBlock (s : State) : KeepsEnvironment s s.resetBlock := ⟨rfl, rfl, Nat.le_refl _⟩

theorem keepsEnvironment_loadBlob (s : State) (blob : List Byte) : KeepsEnvironment s (s.loadBlob blob) :=
  ⟨rfl, rfl, Nat.le_refl _⟩

/-- The outcome is a next state that keeps the parameters, the queue and the draws of `s`. -/
def Completes (s : State) (o : Host.Outcome State Fault Refusal) : Prop := ∃ t, o = .next t ∧ KeepsEnvironment s t

theorem completes_answer {s t : State} (h : KeepsEnvironment s t) (r : Reply) : Completes s (answer t r) :=
  ⟨_, rfl, h.cfg, h.inbox, h.draws⟩

theorem completes_loadCartridge (blob : List Byte) (s : State) : Completes s (execLoadCartridge blob s) := by
  unfold execLoadCartridge
  split
  · exact completes_answer (.refl s) _
  · exact completes_answer (keepsEnvironment_loadBlob s blob) _

/-- The host's four rows one by one, and every other row by its bus frame. -/
theorem exec_completes (i : Instr) (s : State) : Completes s (exec i s) := by
  by_cases hline : ∃ y, i = .renderLine y
  · obtain ⟨y, rfl⟩ := hline
    exact completes_answer (keepsEnvironment_renderVisible s y.toNat) .done
  by_cases hframe : i = .runFrame
  · subst hframe
    exact completes_answer (keepsEnvironment_runFrame s) .done
  by_cases hreset : i = .reset
  · subst hreset
    exact completes_answer (keepsEnvironment_resetBlock s) .done
  by_cases hload : ∃ blob, i = .loadCartridge blob
  · obtain ⟨blob, rfl⟩ := hload
    exact completes_loadCartridge blob s
  obtain ⟨t, ht, hkeep⟩ := exec_answersInFrame i s (not_exists.mp hline) hframe hreset (not_exists.mp hload)
  exact ⟨t, ht, keepsEnvironment_of_busFrame hkeep⟩

/-- Settles O8, by the frames of the transactions and of the host's rows. -/
theorem everyInstructionCompletes : Obligations.EveryInstructionCompletes := by
  intro i s
  obtain ⟨t, ht, hkeep⟩ := exec_completes i s
  exact ⟨t, ht, hkeep.cfg, hkeep.inbox, hkeep.draws⟩

/-! ### Byte memories -/

/-- Settles O11, by the laws of `Memory.write` and of the canonical form. -/
theorem memoryReadAfterWrite : Obligations.MemoryReadAfterWrite :=
  ⟨fun m k j b => read_write m k j b, fun _ _ _ b hm hk => wf_write hm hk b, fun _ _ _ hm hn h => eq_of_read_eq hm hn h⟩

end Sys2Proof.Proofs
end

section
/-! PROOFS. The statements of 10_state.md: the invariant holds at reset (O9) and every step keeps it (O10), and what a status
read returns (O37). -/

namespace Sys2Proof.Proofs

open Sys2Proof.Machine Sys2Proof.Laws

/-! ### The decoder gives well-formed instructions only -/

/-- What a decoder gives, if anything, is well-formed. -/
def GivesWf (x : Except DecodeError Instr) : Prop := ∀ i, x = .ok i → i.wf = true

theorem givesWf_ok {i : Instr} (h : i.wf = true) : GivesWf (.ok i) := by
  rintro _ ⟨⟩
  exact h

theorem givesWf_error (e : DecodeError) : GivesWf (.error e) := nofun

/-! Reading an operand gives nothing of its own: what follows it decides. -/

theorem givesWf_takeByte {t : Tag} {args : List Byte} {k : Byte → List Byte → Except DecodeError Instr}
    (h : ∀ b r, GivesWf (k b r)) : GivesWf (takeByte t args k) := fun i hi =>
  have ⟨b, r, _, hk⟩ := takeByte_ok hi
  h b r i hk

theorem givesWf_takeWord {t : Tag} {args : List Byte} {k : Word → List Byte → Except DecodeError Instr}
    (h : ∀ v r, GivesWf (k v r)) : GivesWf (takeWord t args k) := fun i hi =>
  have ⟨v, r, _, hk⟩ := takeWord_ok hi
  h v r i hk

theorem givesWf_takeAddr {t : Tag} {args : List Byte} {k : Addr → List Byte → Except DecodeError Instr}
    (h : ∀ a r, GivesWf (k a r)) : GivesWf (takeAddr t args k) := fun i hi =>
  have ⟨a, r, _, hk⟩ := takeAddr_ok hi
  h a r i hk

theorem givesWf_takeLong {t : Tag} {args : List Byte} {k : Long → List Byte → Except DecodeError Instr}
    (h : ∀ v r, GivesWf (k v r)) : GivesWf (takeLong t args k) := fun i hi =>
  have ⟨v, r, _, hk⟩ := takeLong_ok hi
  h v r i hk

theorem givesWf_takeOffset {t : Tag} {args : List Byte} {k : BitVec 5 → List Byte → Except DecodeError Instr}
    (h : ∀ off r, GivesWf (k off r)) : GivesWf (takeOffset t args k) := fun i hi =>
  have ⟨off, r, _, hk⟩ := takeOffset_ok hi
  h off r i hk

theorem givesWf_atEnd {t : Tag} {args : List Byte} {x : Except DecodeError Instr} (h : GivesWf x) :
    GivesWf (atEnd t args x) := fun i hi => h i (atEnd_ok hi).2

/-! The rows chosen by an operand or by the context: each is chosen by the very check that `wf` makes. -/

theorem decodeAddr_wf (a : Addr) (acc : Access 8) : (decodeAddr a acc).wf = true := by
  unfold decodeAddr
  split <;> exact beq_iff_eq.mpr ‹_›

theorem decodePort_wf (off : BitVec 5) (acc : Access 16) : (decodePort off acc).wf = true := by
  unfold decodePort
  split <;> exact beq_iff_eq.mpr ‹_›

theorem givesWf_decodePortRead (off : BitVec 5) : GivesWf (decodePortRead off) := by
  unfold decodePortRead
  split
  · exact givesWf_error _
  all_goals exact givesWf_ok (beq_iff_eq.mpr ‹_›)

theorem givesWf_decodePortWrite (off : BitVec 5) (v : Word) : GivesWf (decodePortWrite off v) := by
  unfold decodePortWrite
  split
  · exact givesWf_error _
  · exact givesWf_error _
  all_goals exact givesWf_ok (beq_iff_eq.mpr ‹_›)

theorem decodeCtrl_wf (pending : Bool) (w : Word) : (decodeCtrl pending w).wf = true := by
  unfold decodeCtrl
  split
  · rfl
  · split <;> rename_i hmark
    · rfl
    · exact bne_iff_ne.mpr fun h => hmark (beq_iff_eq.mpr h)

theorem decodeDataWrite_wf (code : BitVec 6) (v : Word) : (decodeDataWrite code v).wf = true := by
  unfold decodeDataWrite
  split <;> rfl

theorem decodeDataRead_wf (code : BitVec 6) : (decodeDataRead code).wf = true := by
  unfold decodeDataRead
  split <;> rfl

theorem givesWf_decodeDma (c : DecodeCtx) : GivesWf (decodeDma c) := by
  unfold decodeDma
  split
  · split
    · split <;> exact givesWf_ok rfl
    · exact givesWf_ok rfl
  · exact givesWf_error _

theorem givesWf_dmaFire (fillPending : Bool) (v : Word) :
    GivesWf (if fillPending then .ok (.dmaFillFire v) else .error .noFillArmed) := by
  split
  exacts [givesWf_ok rfl, givesWf_error _]

/-- One tag at a time: the operands are read, and the row is given or chosen. -/
theorem givesWf_decodeArgs (c : DecodeCtx) (t : Tag) (args : List Byte) : GivesWf (decodeArgs c t args) := by
  unfold decodeArgs
  cases t
  case read8 | read16 | read32 => exact givesWf_takeLong fun _ _ => givesWf_atEnd (givesWf_ok rfl)
  case write8 => exact givesWf_takeLong fun _ _ => givesWf_takeByte fun _ _ => givesWf_atEnd (givesWf_ok rfl)
  case write16 => exact givesWf_takeLong fun _ _ => givesWf_takeWord fun _ _ => givesWf_atEnd (givesWf_ok rfl)
  case write32 => exact givesWf_takeLong fun _ _ => givesWf_takeLong fun _ _ => givesWf_atEnd (givesWf_ok rfl)
  case dmaRead => exact givesWf_takeAddr fun _ _ => givesWf_atEnd (givesWf_ok rfl)
  case sread8 => exact givesWf_takeWord fun _ _ => givesWf_atEnd (givesWf_ok rfl)
  case swrite8 => exact givesWf_takeWord fun _ _ => givesWf_takeByte fun _ _ => givesWf_atEnd (givesWf_ok rfl)
  case addrRead => exact givesWf_takeAddr fun a _ => givesWf_atEnd (givesWf_ok (decodeAddr_wf a _))
  case addrWrite =>
    exact givesWf_takeAddr fun a _ => givesWf_takeByte fun _ _ => givesWf_atEnd (givesWf_ok (decodeAddr_wf a _))
  case portRead => exact givesWf_takeOffset fun off _ => givesWf_atEnd (givesWf_ok (decodePort_wf off _))
  case portWrite =>
    exact givesWf_takeOffset fun off _ => givesWf_takeWord fun _ _ => givesWf_atEnd (givesWf_ok (decodePort_wf off _))
  case accessRead => exact givesWf_takeOffset fun off _ => givesWf_atEnd (givesWf_decodePortRead off)
  case accessWrite =>
    exact givesWf_takeOffset fun off _ => givesWf_takeWord fun v _ => givesWf_atEnd (givesWf_decodePortWrite off v)
  case byteRead | longRead => exact givesWf_takeOffset fun _ _ => givesWf_atEnd (givesWf_ok rfl)
  case byteWrite => exact givesWf_takeOffset fun _ _ => givesWf_takeByte fun _ _ => givesWf_atEnd (givesWf_ok rfl)
  case longWrite => exact givesWf_takeOffset fun _ _ => givesWf_takeLong fun _ _ => givesWf_atEnd (givesWf_ok rfl)
  case ctrl => exact givesWf_takeWord fun w _ => givesWf_atEnd (givesWf_ok (decodeCtrl_wf c.pending w))
  case dataRead => exact givesWf_atEnd (givesWf_ok (decodeDataRead_wf c.code))
  case dataWrite => exact givesWf_takeWord fun v _ => givesWf_atEnd (givesWf_ok (decodeDataWrite_wf c.code v))
  case dmaTrigger => exact givesWf_atEnd (givesWf_decodeDma c)
  case dmaFire => exact givesWf_takeWord fun v _ => givesWf_atEnd (givesWf_dmaFire c.fillPending v)
  case renderLine => exact givesWf_takeByte fun _ _ => givesWf_atEnd (givesWf_ok rfl)
  case runFrame | reset => exact givesWf_atEnd (givesWf_ok rfl)
  case load => exact givesWf_ok rfl

theorem givesWf_decode (c : DecodeCtx) (q : Request) : GivesWf (decode c q) := by
  unfold decode
  split
  · exact givesWf_error _
  · split
    · exact givesWf_decodeArgs c _ _
    · exact givesWf_error _

/-! ### What a transaction's row keeps -/

/-- The outcome is the next state of a bus step from `s`, with a reply recorded. -/
def AnswersBusStep (s : State) (o : Host.Outcome State Fault Refusal) : Prop :=
  ∃ t r, o = .next (t.replied r) ∧ BusStep s t

theorem answersBusStep_answer {s t : State} (h : BusStep s t) (r : Reply) : AnswersBusStep s (answer t r) := ⟨t, r, rfl, h⟩

theorem answersBusStep_finish {s t : State} (h : BusStep s t) : AnswersBusStep s (finish t) :=
  answersBusStep_answer h .done

/-- An update of the VDP alone that keeps the VDP's part of the invariant. -/
theorem busStep_vdp (s : State) {v : VdpState} (h : VdpOk s.vdp → VdpOk v) : BusStep s { s with vdp := v } :=
  (portStep_vdp s h).toBusStep

theorem busStep_afterRead (s : State) : BusStep s { s with vdp := s.vdp.afterRead } := busStep_vdp s id

/-- The masked index of a sound-RAM store is within the sound RAM only at the region's own addresses, so the row has to be
well-formed. -/
theorem answersBusStep_regionAccess (s : State) (r : Region) (a : Addr) (acc : Access 8)
    (h : r = .soundRam → classify a.toNat = .soundRam) : AnswersBusStep s (s.regionAccess r a acc) := by
  cases acc with
  | read => exact answersBusStep_answer (busStep_rd8 s r a) _
  | write b => exact answersBusStep_finish (busStep_wr8 s r a b h)

theorem answersBusStep_portAccess (s : State) (off : BitVec 5) (acc : Access 16) :
    AnswersBusStep s (s.portAccess off acc) := by
  cases acc with
  | read => exact answersBusStep_answer (portStep_vdpRead16 s off).toBusStep _
  | write v => exact answersBusStep_finish (portStep_vdpWrite16 s off v).toBusStep

theorem answersBusStep_vdpUnused (s : State) (acc : Access 16) : AnswersBusStep s (execVdpUnused acc s) := by
  cases acc with
  | read => exact answersBusStep_answer (BusStep.refl s) _
  | write v => exact answersBusStep_finish (BusStep.refl s)

theorem answersBusStep_vdpByteAccess (s : State) (off : BitVec 5) (acc : Access 8) :
    AnswersBusStep s (execVdpByteAccess off acc s) := by
  cases acc with
  | read => exact answersBusStep_answer (portStep_vdpRead8 s off).toBusStep _
  | write b => exact answersBusStep_finish (portStep_vdpWrite8 s off b).toBusStep

theorem answersBusStep_vdpLongAccess (s : State) (off : BitVec 5) (acc : Access 32) :
    AnswersBusStep s (execVdpLongAccess off acc s) := by
  cases acc with
  | read => exact answersBusStep_answer (portStep_vdpRead32 s off).toBusStep _
  | write v => exact answersBusStep_finish (portStep_vdpWrite32 s off v).toBusStep

/-- A region row's address, in the sound-RAM row, is one of the sound RAM's. -/
theorem classify_of_wf_regionSoundram {a : Addr} {acc : Access 8} (h : (Instr.regionSoundram a acc).wf = true) :
    classify a.toNat = .soundRam := by
  rw [classify_eq_region, show addrRow a = .soundram from beq_iff_eq.mp h]
  rfl

/-- Every well-formed row but the host's four answers a bus step. -/
theorem exec_answersBusStep (i : Instr) (s : State) (hw : i.wf = true) (hline : ∀ y, i ≠ .renderLine y)
    (hframe : i ≠ .runFrame) (hreset : i ≠ .reset) (hload : ∀ b, i ≠ .loadCartridge b) :
    AnswersBusStep s (exec i s) := by
  cases i
  case renderLine y => exact absurd rfl (hline y)
  case runFrame => exact absurd rfl hframe
  case reset => exact absurd rfl hreset
  case loadCartridge b => exact absurd rfl (hload b)
  case read8 | read16 | read32 | write8 | write16 | write32 => exact answersBusStep_answer (busStep_busOp s _) _
  case sread8 | swrite8 => exact answersBusStep_answer (busStep_soundOp s _) _
  case dmaSourceRead16 src => exact answersBusStep_answer (portStep_dmaSourceRead16 s src).toBusStep _
  case regionSoundram a acc =>
    exact answersBusStep_regionAccess s _ a acc fun _ => classify_of_wf_regionSoundram hw
  case regionRom a acc | regionRommirror a acc | regionRommirror2 a acc | regionSynth a acc | regionSoundbank a acc
      | regionSoundvdp a acc | regionUnmapped a acc | regionSoundromview a acc | regionIo a acc | regionBusreq a acc
      | regionSoundreset a acc | regionUnmapped2 a acc | regionVdp a acc | regionRam a acc | regionUnmapped3 a acc =>
    exact answersBusStep_regionAccess s _ a acc nofun
  case vdpDataPort off acc | vdpControlPort off acc | vdpHvPort off acc | vdpPsgPort off acc | vdpUnusedPort off acc =>
    exact answersBusStep_portAccess s off acc
  case ctrlRegwrite x r v => exact answersBusStep_finish (portStep_regWrite s r v).toBusStep
  case ctrlCmd1 => exact answersBusStep_finish (busStep_vdp s id)
  case ctrlCmd2 x cd52 y a => exact answersBusStep_finish (portStep_cmdWord2 s cd52 a).toBusStep
  case dataWriteVram v => exact answersBusStep_finish (busStep_vdp s fun h => ok_writeVram h v)
  case dataWriteCram v => exact answersBusStep_finish (busStep_vdp s fun h => ok_writeCram h v)
  case dataWriteVsram v => exact answersBusStep_finish (busStep_vdp s fun h => ok_writeVsram h v)
  case dataWriteNotarget v => exact answersBusStep_finish (busStep_vdp s fun h => ok_writeNotarget h v)
  case dataWriteReadcode v => exact answersBusStep_finish (busStep_vdp s fun h => ok_writeReadcode h v)
  case dataReadVram | dataReadVsram | dataReadCram | dataReadVram8 => exact answersBusStep_answer (busStep_afterRead s) _
  case dataReadInvalid => exact answersBusStep_answer (portStep_readInvalid s).toBusStep _
  case statusRead => exact answersBusStep_answer (portStep_statusRead s).toBusStep _
  case hvRead => exact answersBusStep_answer (portStep_hvRead s).toBusStep _
  case psgWrite off v => exact answersBusStep_finish (portStep_psgWrite s v).toBusStep
  case psgRead => exact answersBusStep_answer (BusStep.refl s) _
  case hvWrite | dmaDisabled => exact answersBusStep_finish (BusStep.refl s)
  case vdpUnused off acc => exact answersBusStep_vdpUnused s acc
  case vdpByteAccess off acc => exact answersBusStep_vdpByteAccess s off acc
  case vdpLongAccess off acc => exact answersBusStep_vdpLongAccess s off acc
  case dma68k => exact answersBusStep_finish (portStep_dma68k s).toBusStep
  case dmaFillArm => exact answersBusStep_finish (busStep_vdp s id)
  case dmaFillFire v =>
    exact answersBusStep_finish (busStep_vdp s fun h => ok_runFill (v := { s.vdp with fillPending := false }) h v)
  case dmaCopy => exact answersBusStep_finish (busStep_vdp s ok_dmaCopy)

/-! ### The invariant -/

/-- A transaction keeps the invariant: it keeps the data's part and does not touch the scheduler. -/
theorem inv_of_busStep {s t : State} (h : BusStep s t) (hs : s.Inv) : t.Inv := by
  obtain ⟨hmem, hregs, hbetween⟩ := hs
  obtain ⟨hmem', hregs'⟩ := h.ok ⟨hmem, hregs⟩
  refine ⟨hmem', hregs', ?_⟩
  rw [State.BetweenFrames, h.sched, h.cfg]
  exact hbetween

theorem totalLines_pos (r : TvRegion) : 0 < totalLines r := by
  rcases totalLines_cases r with h | h <;> omega

theorem highRegsZero_reset : VdpState.reset.HighRegsZero := fun i _ => by
  simp [VdpState.r, VdpState.reset]

/-- R99: whatever the cartridge and the parameters, the reset values of the other elements satisfy the invariant. -/
theorem inv_of_reset {s : State} (hsize : s.bus.romSize ≤ romMax) (hrom : Memory.wf s.bus.romSize s.bus.rom = true)
    (hwram : s.bus.wram = []) (hsram : s.bus.sram = []) (hvdp : s.vdp = VdpState.reset)
    (hsched : s.sched = SchedState.reset) : s.Inv := by
  rw [State.Inv, State.MemoriesWf, State.BetweenFrames, hwram, hsram, hvdp, hsched]
  exact ⟨⟨hsize, hrom, rfl, rfl, rfl, rfl⟩, highRegsZero_reset, rfl, rfl, totalLines_pos _⟩

/-- Settles O9: at power-on there is no cartridge and the rest is as after any reset. -/
theorem resetInv : Obligations.ResetInv := inv_of_reset (Nat.zero_le _) rfl rfl rfl rfl rfl

theorem inv_resetBlock {s : State} (h : s.Inv) : s.resetBlock.Inv := by
  obtain ⟨⟨hsize, hrom, -⟩, -⟩ := h
  exact inv_of_reset hsize hrom rfl rfl rfl rfl

theorem inv_loadBlob (s : State) {blob : List Byte} (h : blob.length ≤ romMax) : (s.loadBlob blob).Inv :=
  inv_of_reset h (wf_ofBytes blob) rfl rfl rfl rfl

/-- A requested line keeps the data's part of the invariant and does not touch the scheduler (R379). -/
theorem inv_renderVisible {s : State} (h : s.Inv) (y : Nat) : (s.renderVisible y).Inv := by
  rw [renderVisible_eq]
  split
  · obtain ⟨hmem, hregs, hbetween⟩ := h
    have hstep := (LineStep.refl s).renderLine y
    obtain ⟨hmem', hregs'⟩ := hstep.ok ⟨hmem, hregs⟩
    refine ⟨hmem', hregs', ?_⟩
    rw [State.BetweenFrames, renderLine_sched, hstep.cfg]
    exact hbetween
  · exact h

/-- Whatever the CPUs do in it, a frame ends Idle, outside HBlank and on the last line. -/
theorem betweenFrames_runFrame (s : State) : s.runFrame.BetweenFrames := by
  obtain ⟨-, -, hhb, hphase, hline, -⟩ := runFrame_sched s
  have hpos := totalLines_pos s.cfg.region
  refine ⟨hphase, hhb, ?_⟩
  rw [hline, (lineStep_runFrame s).cfg, frameStart_cfg]
  omega

theorem inv_runFrame {s : State} (h : s.Inv) : s.runFrame.Inv := by
  obtain ⟨hmem, hregs, -⟩ := h
  obtain ⟨hmem', hregs'⟩ := (lineStep_runFrame s).ok ⟨hmem, hregs⟩
  exact ⟨hmem', hregs', betweenFrames_runFrame s⟩

/-- The outcome is a next state with the invariant. -/
def AnswersInv (o : Host.Outcome State Fault Refusal) : Prop := ∃ t, o = .next t ∧ t.Inv

/-- The invariant does not read the reply. -/
theorem answersInv_answer {t : State} (h : t.Inv) (r : Reply) : AnswersInv (answer t r) := ⟨_, rfl, h⟩

theorem answersInv_loadCartridge (blob : List Byte) {s : State} (h : s.Inv) : AnswersInv (execLoadCartridge blob s) := by
  unfold execLoadCartridge
  split <;> rename_i hlen
  · exact answersInv_answer h _
  · exact answersInv_answer (inv_loadBlob s (Nat.le_of_not_lt hlen)) _

/-- The host's four rows one by one, and every other row by its bus step. -/
theorem exec_answersInv (i : Instr) {s : State} (hw : i.wf = true) (hs : s.Inv) : AnswersInv (exec i s) := by
  by_cases hline : ∃ y, i = .renderLine y
  · obtain ⟨y, rfl⟩ := hline
    exact answersInv_answer (inv_renderVisible hs y.toNat) .done
  by_cases hframe : i = .runFrame
  · subst hframe
    exact answersInv_answer (inv_runFrame hs) .done
  by_cases hreset : i = .reset
  · subst hreset
    exact answersInv_answer (inv_resetBlock hs) .done
  by_cases hload : ∃ blob, i = .loadCartridge blob
  · obtain ⟨blob, rfl⟩ := hload
    exact answersInv_loadCartridge blob hs
  obtain ⟨t, r, ht, hstep⟩ :=
    exec_answersBusStep i s hw (not_exists.mp hline) hframe hreset (not_exists.mp hload)
  have hinv := inv_of_busStep hstep hs
  exact ⟨_, ht, hinv⟩

/-- A request that is served was decoded, so the instruction run is well-formed. -/
theorem serve_inv {q : Request} {s t : State} (hs : s.Inv) (h : serve q s = .next t) : t.Inv := by
  unfold serve at h
  split at h <;> rename_i i hdecode
  · obtain ⟨u, hu, hinv⟩ := exec_answersInv i (givesWf_decode _ _ i hdecode) hs
    rw [hu] at h
    cases h
    exact hinv
  · cases h

/-- Settles O10: an idle step changes nothing, and a request is served in a state that differs in the queue alone. -/
theorem stepKeepsInv : Obligations.StepKeepsInv := by
  intro s t hs hstep
  cases hq : s.env.inbox with
  | nil =>
    unfold step at hstep
    rw [hq] at hstep
    cases hstep
    exact hs
  | cons q rest =>
    rw [step_of_inbox hq] at hstep
    exact serve_inv (s := { s with env := { s.env with inbox := rest } }) hs hstep

/-! ### The status word -/

/-- R76, bits 15:10: the draw. -/
theorem statusWord_free (s : State) (d : BitVec 6) : (s.statusWord d).extractLsb' 10 6 = d := by
  unfold State.statusWord
  exact (extract_append_high (n := 10) (k := 0) (w := 6) d _).trans (extract_all d)

/-- R76, bits 9:0: below the drawn bits each one is fixed or a flag of the state. -/
theorem statusWord_bits (s : State) (d : BitVec 6) :
    (s.statusWord d).getLsbD 9 = true ∧ (s.statusWord d).getLsbD 8 = false ∧ (s.statusWord d).getLsbD 7 = s.sched.f ∧
    (s.statusWord d).getLsbD 6 = false ∧ (s.statusWord d).getLsbD 5 = false ∧ (s.statusWord d).getLsbD 4 = false ∧
    (s.statusWord d).getLsbD 3 = s.sched.vb ∧ (s.statusWord d).getLsbD 2 = s.sched.hb ∧
    (s.statusWord d).getLsbD 1 = s.vdp.fillPending ∧ (s.statusWord d).getLsbD 0 = (s.cfg.region == .pal) := by
  unfold State.statusWord
  simp only [BitVec.getLsbD_append]
  simp

/-- Settles O37, with the status word of the next draw. -/
theorem statusRead : Obligations.StatusRead := fun s _ =>
  ⟨s.statusWord (Config.freeBits 6 s.env.draws), rfl, statusWord_free s _, statusWord_bits s _⟩

end Sys2Proof.Proofs
end

section
/-! PROOFS. The statements of 20_memory.md: the sprite cache keeps agreeing with VRAM inside its window (O47). -/

namespace Sys2Proof.Proofs

open Sys2Proof.Machine Sys2Proof.Laws

/-! ### Data writes keep the agreement -/

/-- Neither the latch nor the FIFO has a part in the agreement. -/
theorem coherent_dataBegin {v : VdpState} (h : v.CacheCoherent) (w : Word) : (v.dataBegin w).CacheCoherent :=
  coherent_of_eq rfl rfl rfl h

theorem coherent_fireFill {v : VdpState} (h : v.CacheCoherent) (w : Word) : (v.fireFill w).CacheCoherent :=
  runFill_coherent (v := { v with fillPending := false }) (coherent_of_eq rfl rfl rfl h) w

theorem coherent_dataEnd {v : VdpState} (h : v.CacheCoherent) (w : Word) : (v.dataEnd w).CacheCoherent := by
  unfold VdpState.dataEnd
  split
  · exact coherent_fireFill h w
  · exact h

/-- R280: whatever a data write does between its common first and last lines, if that keeps the agreement, the write does. -/
theorem coherent_dataEnd_of_kept {v u : VdpState} {w : Word} (k : Kept (v.dataBegin w) u) (h : v.CacheCoherent) :
    (u.dataEnd w).CacheCoherent :=
  coherent_dataEnd (k.coherent (coherent_dataBegin h w)) w

theorem coherent_writeVram {v : VdpState} (h : v.CacheCoherent) (w : Word) : (v.writeVram w).CacheCoherent :=
  coherent_dataEnd_of_kept ((kept_vramWritePair _ _ _).trans (kept_addrAdvance _)) h

theorem coherent_writeCram {v : VdpState} (h : v.CacheCoherent) (w : Word) : (v.writeCram w).CacheCoherent :=
  coherent_dataEnd_of_kept ((kept_cramStore _ _ _).trans (kept_addrAdvance _)) h

theorem coherent_writeVsram {v : VdpState} (h : v.CacheCoherent) (w : Word) : (v.writeVsram w).CacheCoherent :=
  coherent_dataEnd_of_kept ((kept_vsramStore _ _ _).trans (kept_addrAdvance _)) h

theorem coherent_writeNotarget {v : VdpState} (h : v.CacheCoherent) (w : Word) : (v.writeNotarget w).CacheCoherent :=
  coherent_dataEnd_of_kept (kept_addrAdvance _) h

theorem coherent_writeReadcode {v : VdpState} (h : v.CacheCoherent) (w : Word) : (v.writeReadcode w).CacheCoherent :=
  coherent_dataEnd_of_kept (Kept.refl _) h

/-! ### The second command word keeps the agreement -/

theorem coherent_triggerDma {s : State} (h : s.vdp.CacheCoherent) : s.triggerDma.vdp.CacheCoherent := by
  unfold State.triggerDma
  split
  · exact dma68k_coherent h
  · exact coherent_of_eq rfl rfl rfl h
  · exact dmaCopy_coherent h

/-- The command itself moves neither the window nor a byte, so only the DMA it may trigger counts. -/
theorem coherent_cmdWord2 {s : State} (h : s.vdp.CacheCoherent) (cd52 : BitVec 4) (a : BitVec 2) :
    (s.cmdWord2 cd52 a).vdp.CacheCoherent := by
  have hcmd : (s.vdp.cmdWord2 cd52 a).CacheCoherent := coherent_of_eq rfl rfl rfl h
  unfold State.cmdWord2
  dsimp only
  split
  · exact coherent_triggerDma hcmd
  · exact hcmd

/-! ### The rows -/

/-- The outcome is a next state whose cache agrees with VRAM. -/
def AnswersCoherent (o : Host.Outcome State Fault Refusal) : Prop := ∃ t, o = .next t ∧ t.vdp.CacheCoherent

/-- The agreement does not read the reply. -/
theorem answersCoherent_finish {t : State} (h : t.vdp.CacheCoherent) : AnswersCoherent (finish t) := ⟨_, rfl, h⟩

/-- Settles O47: VRAM changes by `vramWrite` alone, which mirrors into the cache, and none of these rows writes register 5 or 12,
which place the window. -/
theorem spriteCacheFollowsVram : Obligations.SpriteCacheFollowsVram := by
  intro s v x cd52 y a h
  simp only [List.forall_mem_cons]
  refine ⟨?vram, ?cram, ?vsram, ?notarget, ?readcode, ?fill, ?cpuCopy, ?vramCopy, ?cmd2, List.forall_mem_nil _⟩
  case vram => exact answersCoherent_finish (coherent_writeVram h v)
  case cram => exact answersCoherent_finish (coherent_writeCram h v)
  case vsram => exact answersCoherent_finish (coherent_writeVsram h v)
  case notarget => exact answersCoherent_finish (coherent_writeNotarget h v)
  case readcode => exact answersCoherent_finish (coherent_writeReadcode h v)
  case fill => exact answersCoherent_finish (coherent_fireFill h v)
  case cpuCopy => exact answersCoherent_finish (dma68k_coherent h)
  case vramCopy => exact answersCoherent_finish (dmaCopy_coherent h)
  case cmd2 => exact answersCoherent_finish (coherent_cmdWord2 h cd52 a)

end Sys2Proof.Proofs
end

section
/-! PROOFS. The statements of 30_encoding.md: the decoder and the encoder are inverse to each other (O1, O2), a few words read by
hand (O4), and the dispatch of the VDP's ports (O28). -/

namespace Sys2Proof.Proofs

open Sys2Proof.Machine Sys2Proof.Laws

/-- Settles O1: every row's request is read back, format by format (`decode_encode`). -/
theorem decodeOfEncode : Obligations.DecodeOfEncode := decode_encode

/-- Settles O4: a finite check, the decoder run on each word. -/
theorem tableWordsDecode : Obligations.TableWordsDecode := by
  unfold Obligations.TableWordsDecode
  decide

/-! ### What the decoder accepts is an encoding -/

/-- What a decoder gives, if anything, is selected by the context and encoded by the bytes read, `p`, and those left, `r`. -/
def GivesEncoded (c : DecodeCtx) (x : Except DecodeError Instr) (p r : List Byte) : Prop :=
  ∀ i, x = .ok i → encode i = p ++ r ∧ i.selectedBy c = true

theorem givesEncoded_ok {c : DecodeCtx} {i : Instr} {p r : List Byte} (hencode : encode i = p ++ r)
    (hselected : i.selectedBy c = true) : GivesEncoded c (.ok i) p r := by
  rintro _ ⟨⟩
  exact ⟨hencode, hselected⟩

/-- The request is read to its end. -/
theorem givesEncoded_read {c : DecodeCtx} {i : Instr} {p : List Byte} (hencode : encode i = p)
    (hselected : i.selectedBy c = true) : GivesEncoded c (.ok i) p [] :=
  givesEncoded_ok (hencode.trans (List.append_nil p).symm) hselected

theorem givesEncoded_error {c : DecodeCtx} {e : DecodeError} {p r : List Byte} : GivesEncoded c (.error e) p r := nofun

/-- Bytes read are bytes no longer left. -/
theorem GivesEncoded.unread {c : DecodeCtx} {x : Except DecodeError Instr} {p m r : List Byte}
    (h : GivesEncoded c x (p ++ m) r) : GivesEncoded c x p (m ++ r) := by
  unfold GivesEncoded at h ⊢
  rwa [List.append_assoc] at h

/-! Reading an operand gives nothing of its own: what follows it decides, with the operand's own bytes read. -/

section
variable {c : DecodeCtx} {t : Tag} {args p : List Byte}

theorem givesEncoded_takeByte {k : Byte → List Byte → Except DecodeError Instr}
    (h : ∀ b r, GivesEncoded c (k b r) (p ++ [b]) r) : GivesEncoded c (takeByte t args k) p args := by
  intro i hi
  obtain ⟨b, r, rfl, hk⟩ := takeByte_ok hi
  exact (h b r).unread i hk

theorem givesEncoded_takeWord {k : Word → List Byte → Except DecodeError Instr}
    (h : ∀ v r, GivesEncoded c (k v r) (p ++ bytes16 v) r) : GivesEncoded c (takeWord t args k) p args := by
  intro i hi
  obtain ⟨v, r, rfl, hk⟩ := takeWord_ok hi
  exact (h v r).unread i hk

theorem givesEncoded_takeAddr {k : Addr → List Byte → Except DecodeError Instr}
    (h : ∀ a r, GivesEncoded c (k a r) (p ++ bytes24 a) r) : GivesEncoded c (takeAddr t args k) p args := by
  intro i hi
  obtain ⟨a, r, rfl, hk⟩ := takeAddr_ok hi
  exact (h a r).unread i hk

theorem givesEncoded_takeLong {k : Long → List Byte → Except DecodeError Instr}
    (h : ∀ v r, GivesEncoded c (k v r) (p ++ bytes32 v) r) : GivesEncoded c (takeLong t args k) p args := by
  intro i hi
  obtain ⟨v, r, rfl, hk⟩ := takeLong_ok hi
  exact (h v r).unread i hk

theorem givesEncoded_takeOffset {k : BitVec 5 → List Byte → Except DecodeError Instr}
    (h : ∀ off r, GivesEncoded c (k off r) (p ++ [offByte off]) r) : GivesEncoded c (takeOffset t args k) p args := by
  intro i hi
  obtain ⟨off, r, rfl, hk⟩ := takeOffset_ok hi
  exact (h off r).unread i hk

theorem givesEncoded_atEnd {x : Except DecodeError Instr} (h : GivesEncoded c x p []) :
    GivesEncoded c (atEnd t args x) p args := by
  intro i hi
  obtain ⟨rfl, hx⟩ := atEnd_ok hi
  exact h i hx

end

/-! The rows chosen by an operand: all rows of one format have its encoding, and no context chooses between them. -/

theorem decodeAddr_encoded (c : DecodeCtx) (a : Addr) (acc : Access 8) :
    GivesEncoded c (.ok (decodeAddr a acc)) (encodeAddr a acc) [] := by
  unfold decodeAddr
  split <;> exact givesEncoded_read rfl rfl

theorem decodePort_encoded (c : DecodeCtx) (off : BitVec 5) (acc : Access 16) :
    GivesEncoded c (.ok (decodePort off acc)) (encodePort off acc) [] := by
  unfold decodePort
  split <;> exact givesEncoded_read rfl rfl

theorem decodePortRead_encoded (c : DecodeCtx) (off : BitVec 5) :
    GivesEncoded c (decodePortRead off) (encodeAccess off .read) [] := by
  unfold decodePortRead
  split
  · exact givesEncoded_error
  all_goals exact givesEncoded_read rfl rfl

theorem decodePortWrite_encoded (c : DecodeCtx) (off : BitVec 5) (v : Word) :
    GivesEncoded c (decodePortWrite off v) (encodeAccess off (.write v)) [] := by
  unfold decodePortWrite
  split
  · exact givesEncoded_error
  · exact givesEncoded_error
  all_goals exact givesEncoded_read rfl rfl

/-! A control word is put together again from the fields it was taken apart into. -/

/-- Two adjacent fields side by side are one field. -/
theorem extract_append_extract {n : Nat} (x : BitVec n) (k a b : Nat) :
    x.extractLsb' (k + a) b ++ x.extractLsb' k a = x.extractLsb' k (b + a) :=
  BitVec.extractLsb'_append_extractLsb'_eq_extractLsb' rfl

theorem cmd1Word_of_fields (w : Word) : cmd1Word (w.extractLsb' 14 2) (w.extractLsb' 0 14) = w := by
  unfold cmd1Word
  rw [extract_append_extract w 0 14 2, extract_all]

theorem regWriteWord_of_fields {w : Word} (h : w.extractLsb' 14 2 = 0b10) :
    regWriteWord (w.extractLsb' 13 1) (w.extractLsb' 8 5) (w.extractLsb' 0 8) = w := by
  have hlow : w.extractLsb' 13 1 ++ (w.extractLsb' 8 5 ++ w.extractLsb' 0 8) = w.extractLsb' 0 14 := by
    rw [extract_append_extract w 0 8 5, extract_append_extract w 0 13 1]
  calc regWriteWord (w.extractLsb' 13 1) (w.extractLsb' 8 5) (w.extractLsb' 0 8)
    _ = cmd1Word (w.extractLsb' 14 2) (w.extractLsb' 0 14) := by rw [h, ← hlow]; rfl
    _ = w := cmd1Word_of_fields w

theorem cmd2Word_of_fields (w : Word) :
    cmd2Word (w.extractLsb' 8 8) (w.extractLsb' 4 4) (w.extractLsb' 2 2) (w.extractLsb' 0 2) = w := by
  unfold cmd2Word
  rw [extract_append_extract w 0 2 2, extract_append_extract w 0 4 4, extract_append_extract w 0 8 8, extract_all]

/-! The rows chosen by the context: each is chosen by the very check that `selectedBy` makes. -/

theorem decodeCtrl_encoded (c : DecodeCtx) (w : Word) : GivesEncoded c (.ok (decodeCtrl c.pending w)) (encodeCtrl w) [] := by
  unfold decodeCtrl
  split
  next hpending => exact givesEncoded_read (congrArg encodeCtrl (cmd2Word_of_fields w)) hpending
  next hidle =>
    have hs : (!c.pending) = true := Bool.not_eq_true' _ ▸ Bool.eq_false_iff.mpr hidle
    split
    next hmark => exact givesEncoded_read (congrArg encodeCtrl (regWriteWord_of_fields (beq_iff_eq.mp hmark))) hs
    next => exact givesEncoded_read (congrArg encodeCtrl (cmd1Word_of_fields w)) hs

theorem decodeDataWrite_encoded (c : DecodeCtx) (v : Word) :
    GivesEncoded c (.ok (decodeDataWrite c.code v)) (encodeDataWrite v) [] := by
  unfold decodeDataWrite
  split <;> exact givesEncoded_read rfl (beq_iff_eq.mpr ‹_›)

theorem decodeDataRead_encoded (c : DecodeCtx) : GivesEncoded c (.ok (decodeDataRead c.code)) [Tag.dataRead.byte] [] := by
  unfold decodeDataRead
  split <;> exact givesEncoded_read rfl (beq_iff_eq.mpr ‹_›)

theorem decodeDma_encoded (c : DecodeCtx) : GivesEncoded c (decodeDma c) [Tag.dmaTrigger.byte] [] := by
  unfold decodeDma
  split
  next hcode =>
    split
    next henable =>
      split <;> rename_i hmode <;> exact givesEncoded_read rfl (by simp [Instr.selectedBy, hcode, henable, hmode])
    next hdisabled => exact givesEncoded_read rfl (by simp [Instr.selectedBy, hcode, hdisabled])
  next => exact givesEncoded_error

theorem dmaFire_encoded (c : DecodeCtx) (v : Word) :
    GivesEncoded c (if c.fillPending then .ok (.dmaFillFire v) else .error .noFillArmed) (Tag.dmaFire.byte :: bytes16 v) [] := by
  split
  next harmed => exact givesEncoded_read rfl harmed
  next => exact givesEncoded_error

/-- One tag at a time: the operands read are the operands the encoder writes, in its order. -/
theorem decodeArgs_encoded (c : DecodeCtx) (t : Tag) (args : List Byte) :
    GivesEncoded c (decodeArgs c t args) [t.byte] args := by
  unfold decodeArgs
  cases t
  case read8 | read16 | read32 => exact givesEncoded_takeLong fun _ _ => givesEncoded_atEnd (givesEncoded_read rfl rfl)
  case write8 =>
    exact givesEncoded_takeLong fun _ _ => givesEncoded_takeByte fun _ _ => givesEncoded_atEnd (givesEncoded_read rfl rfl)
  case write16 =>
    exact givesEncoded_takeLong fun _ _ => givesEncoded_takeWord fun _ _ => givesEncoded_atEnd (givesEncoded_read rfl rfl)
  case write32 =>
    exact givesEncoded_takeLong fun _ _ => givesEncoded_takeLong fun _ _ => givesEncoded_atEnd (givesEncoded_read rfl rfl)
  case dmaRead => exact givesEncoded_takeAddr fun _ _ => givesEncoded_atEnd (givesEncoded_read rfl rfl)
  case sread8 => exact givesEncoded_takeWord fun _ _ => givesEncoded_atEnd (givesEncoded_read rfl rfl)
  case swrite8 =>
    exact givesEncoded_takeWord fun _ _ => givesEncoded_takeByte fun _ _ => givesEncoded_atEnd (givesEncoded_read rfl rfl)
  case addrRead => exact givesEncoded_takeAddr fun a _ => givesEncoded_atEnd (decodeAddr_encoded c a .read)
  case addrWrite =>
    exact givesEncoded_takeAddr fun a _ => givesEncoded_takeByte fun b _ =>
      givesEncoded_atEnd (decodeAddr_encoded c a (.write b))
  case portRead => exact givesEncoded_takeOffset fun off _ => givesEncoded_atEnd (decodePort_encoded c off .read)
  case portWrite =>
    exact givesEncoded_takeOffset fun off _ => givesEncoded_takeWord fun v _ =>
      givesEncoded_atEnd (decodePort_encoded c off (.write v))
  case accessRead => exact givesEncoded_takeOffset fun off _ => givesEncoded_atEnd (decodePortRead_encoded c off)
  case accessWrite =>
    exact givesEncoded_takeOffset fun off _ => givesEncoded_takeWord fun v _ =>
      givesEncoded_atEnd (decodePortWrite_encoded c off v)
  case byteRead | longRead => exact givesEncoded_takeOffset fun _ _ => givesEncoded_atEnd (givesEncoded_read rfl rfl)
  case byteWrite =>
    exact givesEncoded_takeOffset fun _ _ => givesEncoded_takeByte fun _ _ => givesEncoded_atEnd (givesEncoded_read rfl rfl)
  case longWrite =>
    exact givesEncoded_takeOffset fun _ _ => givesEncoded_takeLong fun _ _ => givesEncoded_atEnd (givesEncoded_read rfl rfl)
  case ctrl => exact givesEncoded_takeWord fun w _ => givesEncoded_atEnd (decodeCtrl_encoded c w)
  case dataRead => exact givesEncoded_atEnd (decodeDataRead_encoded c)
  case dataWrite => exact givesEncoded_takeWord fun v _ => givesEncoded_atEnd (decodeDataWrite_encoded c v)
  case dmaTrigger => exact givesEncoded_atEnd (decodeDma_encoded c)
  case dmaFire => exact givesEncoded_takeWord fun v _ => givesEncoded_atEnd (dmaFire_encoded c v)
  case renderLine => exact givesEncoded_takeByte fun _ _ => givesEncoded_atEnd (givesEncoded_read rfl rfl)
  case runFrame | reset => exact givesEncoded_atEnd (givesEncoded_read rfl rfl)
  case load => exact givesEncoded_ok rfl rfl

theorem decode_encoded (c : DecodeCtx) (q : Request) : GivesEncoded c (decode c q) [] q := by
  unfold decode
  split
  · exact givesEncoded_error
  · split
    next htag => exact byte_of_tagOf htag ▸ decodeArgs_encoded c _ _
    next => exact givesEncoded_error

/-- Settles O2: the readers of the operands accept the encoder's bytes alone, and the rows are chosen by the checks of `wf` and
`selectedBy`. -/
theorem encodeOfDecode : Obligations.EncodeOfDecode := by
  intro c q i h
  obtain ⟨hencode, hselected⟩ := decode_encoded c q i h
  exact ⟨hencode, givesWf_decode c q i h, hselected⟩

/-! ### The VDP's ports: the row a word access runs -/

/-- R260's ranges of offsets are R151's rows. -/
theorem portRow_eq (off : BitVec 5) : portRow off =
    if off.toNat < 0x04 then .data else if off.toNat < 0x08 then .control else if off.toNat < 0x10 then .hv
    else if off.toNat < 0x18 then .psg else .unused := by
  revert off
  decide

/-- R290: reading the data port runs the row of the access code. -/
theorem exec_decodeDataRead (s : State) :
    exec (decodeDataRead s.vdp.code) s = answer s.dataRead.2 (.word s.dataRead.1) := by
  unfold decodeDataRead State.dataRead
  cases readRow s.vdp.code <;> rfl

/-- R280: writing the data port runs the row of the access code. -/
theorem exec_decodeDataWrite (s : State) (w : Word) :
    exec (decodeDataWrite s.vdp.code w) s = finish { s with vdp := s.vdp.dataWrite w } := by
  unfold decodeDataWrite VdpState.dataWrite
  cases writeRow s.vdp.code <;> rfl

/-- R261: writing the control port runs the row of the latch and bits 15:14. -/
theorem exec_decodeCtrl (s : State) (w : Word) : exec (decodeCtrl s.vdp.pending w) s = finish (s.ctrlWrite w) := by
  unfold decodeCtrl State.ctrlWrite
  cases s.vdp.pending
  case true => rfl
  case false => cases w.extractLsb' 14 2 == 0b10 <;> rfl

/-- R260, reads: the data port runs the row of the access code, every other port its own row. -/
theorem portAccess_read (s : State) (off : BitVec 5) : s.portAccess off .read =
    match portRow off with
    | .data => exec (decodeDataRead s.vdp.code) s
    | .control => exec (.statusRead off) s
    | .hv => exec (.hvRead off) s
    | .psg => exec (.psgRead off) s
    | .unused => exec (.vdpUnused off .read) s := by
  rw [exec_decodeDataRead]
  unfold State.portAccess State.vdpRead16
  cases portRow off <;> rfl

/-- R260, writes: the data port runs the row of the access code, the control port that of the latch and bits 15:14. -/
theorem portAccess_write (s : State) (off : BitVec 5) (w : Word) : s.portAccess off (.write w) =
    match portRow off with
    | .data => exec (decodeDataWrite s.vdp.code w) s
    | .control => exec (decodeCtrl s.vdp.pending w) s
    | .hv => exec (.hvWrite off w) s
    | .psg => exec (.psgWrite off w) s
    | .unused => exec (.vdpUnused off (.write w)) s := by
  rw [exec_decodeDataWrite, exec_decodeCtrl]
  unfold State.portAccess State.vdpWrite16
  cases portRow off <;> rfl

/-! R144's three rows, each under its condition. -/

theorem decodeCtrl_pending (w : Word) : decodeCtrl true w =
    .ctrlCmd2 (w.extractLsb' 8 8) (w.extractLsb' 4 4) (w.extractLsb' 2 2) (w.extractLsb' 0 2) := rfl

theorem decodeCtrl_regWrite {w : Word} (h : w.extractLsb' 14 2 = 0b10) : decodeCtrl false w =
    .ctrlRegwrite (w.extractLsb' 13 1) (w.extractLsb' 8 5) (w.extractLsb' 0 8) :=
  if_pos (beq_iff_eq.mpr h)

theorem decodeCtrl_cmd1 {w : Word} (h : w.extractLsb' 14 2 ≠ 0b10) : decodeCtrl false w =
    .ctrlCmd1 (w.extractLsb' 14 2) (w.extractLsb' 0 14) :=
  if_neg (mt beq_iff_eq.mp h)

/-! ### The row an access code selects -/

theorem decodeDataRead_eq (code : BitVec 6) : decodeDataRead code =
    if code &&& 0x0F = 0x00 then .dataReadVram else if code &&& 0x0F = 0x04 then .dataReadVsram
    else if code &&& 0x0F = 0x08 then .dataReadCram else if code &&& 0x0F = 0x0C then .dataReadVram8
    else .dataReadInvalid := by
  unfold decodeDataRead readRow
  simp only [beq_iff_eq]
  split_ifs <;> rfl

/-- R145: bit 0 of the code marks a write. -/
theorem writeBit_iff (code : BitVec 6) : code &&& 0x01 = 0x01 ↔ code.getLsbD 0 = true := by
  revert code
  decide

theorem decodeDataWrite_eq (code : BitVec 6) (w : Word) : decodeDataWrite code w =
    if code &&& 0x0F = 0x01 then .dataWriteVram w else if code &&& 0x0F = 0x03 then .dataWriteCram w
    else if code &&& 0x0F = 0x05 then .dataWriteVsram w
    else if code.getLsbD 0 then .dataWriteNotarget w else .dataWriteReadcode w := by
  unfold decodeDataWrite writeRow
  simp only [beq_iff_eq, writeBit_iff]
  split_ifs <;> rfl

/-- Among the rows of one request, the context selects exactly the one the request decodes to. -/
theorem selectedBy_iff_of_decode {c : DecodeCtx} {i j : Instr} (hwf : i.wf = true) (hdecode : decode c (encode i) = .ok j) :
    i.selectedBy c = true ↔ i = j := by
  constructor
  · intro hselected
    exact Except.ok.inj ((decode_encode c i hwf hselected).symm.trans hdecode)
  · rintro rfl
    exact (decode_encoded c _ i hdecode).2

theorem dataRead_selectedBy_iff (c : DecodeCtx) :
    ∀ i ∈ [Instr.dataReadVram, .dataReadVsram, .dataReadCram, .dataReadVram8, .dataReadInvalid],
      i.selectedBy c = true ↔ i = decodeDataRead c.code := by
  simp only [List.forall_mem_cons]
  refine ⟨?_, ?_, ?_, ?_, ?_, List.forall_mem_nil _⟩ <;> exact selectedBy_iff_of_decode rfl (decode_dataRead c)

theorem dataWrite_selectedBy_iff (c : DecodeCtx) (w : Word) :
    ∀ i ∈ [Instr.dataWriteVram w, .dataWriteCram w, .dataWriteVsram w, .dataWriteNotarget w, .dataWriteReadcode w],
      i.selectedBy c = true ↔ i = decodeDataWrite c.code w := by
  simp only [List.forall_mem_cons]
  refine ⟨?_, ?_, ?_, ?_, ?_, List.forall_mem_nil _⟩ <;> exact selectedBy_iff_of_decode rfl (decode_encodeDataWrite c w)

/-- Settles O28: the offset's row of R151 (`portRow_eq`) chooses the access, and the data port's rows are those the code selects. -/
theorem portDispatch : Obligations.PortDispatch := by
  intro s off w
  have hread := portAccess_read s off
  have hwrite := portAccess_write s off w
  refine ⟨?data, ?control, ?hv, ?psg, ?unused, ?codes⟩
  case data =>
    intro hlt
    have hrow : portRow off = .data := by rw [portRow_eq, if_pos hlt]
    rw [hrow] at hread hwrite
    exact ⟨hread, hwrite⟩
  case control =>
    intro hle hlt
    have hrow : portRow off = .control := by rw [portRow_eq, if_neg (by omega), if_pos hlt]
    rw [hrow] at hread hwrite
    refine ⟨hread, fun hpending => ?_, fun hidle hmark => ?_, fun hidle hmark => ?_⟩
    · rw [hpending, decodeCtrl_pending] at hwrite
      exact hwrite
    · rw [hidle, decodeCtrl_regWrite hmark] at hwrite
      exact hwrite
    · rw [hidle, decodeCtrl_cmd1 hmark] at hwrite
      exact hwrite
  case hv =>
    intro hle hlt
    have hrow : portRow off = .hv := by rw [portRow_eq, if_neg (by omega), if_neg (by omega), if_pos hlt]
    rw [hrow] at hread hwrite
    exact ⟨hread, hwrite⟩
  case psg =>
    intro hle hlt
    have hrow : portRow off = .psg := by
      rw [portRow_eq, if_neg (by omega), if_neg (by omega), if_neg (by omega), if_pos hlt]
    rw [hrow] at hread hwrite
    exact ⟨hread, hwrite⟩
  case unused =>
    intro hle acc
    have hrow : portRow off = .unused := by
      rw [portRow_eq, if_neg (by omega), if_neg (by omega), if_neg (by omega), if_neg (by omega)]
    cases acc with
    | read =>
      rw [hrow] at hread
      exact hread
    | write v =>
      have hwrite := portAccess_write s off v
      rw [hrow] at hwrite
      exact hwrite
  case codes =>
    intro c
    dsimp only
    rw [← decodeDataRead_eq, ← decodeDataWrite_eq]
    exact ⟨rfl, rfl, dataRead_selectedBy_iff c, dataWrite_selectedBy_iff c w⟩

end Sys2Proof.Proofs
end

section
/-! PROOFS. The statements of 40_bus.md: the address table (O3), what the transactions keep (O12, O13), the regions' byte
accesses (O14-O21), and the transactions of both CPUs and of the DMA engine in terms of them (O22-O27). -/

namespace Sys2Proof.Proofs

open Sys2Proof.Machine Sys2Proof.Laws

/-! ### Addresses -/

/-- R200: only bits 23:0 of an address count. -/
theorem classify_mod (n : Nat) : classify (n % 0x1000000) = classify n := by
  unfold classify
  rw [Nat.mod_mod]

/-- Settles O3: `classify` sees what `BitVec.ofNat 24` keeps, and R148's rows agree with it there. -/
theorem addressTableGivesRegions : Obligations.AddressTableGivesRegions := by
  intro n
  rw [← classify_eq_region, BitVec.toNat_ofNat]
  exact (classify_mod n).symm

/-- Keeping the lowest `k` bits of an address takes it modulo `2 ^ k`. -/
theorem toNat_and_lowBits (k : Nat) (a m : Addr) (hm : m.toNat = 2 ^ k - 1) : (a &&& m).toNat = a.toNat % 2 ^ k := by
  rw [BitVec.toNat_and, hm, Nat.and_two_pow_sub_one_eq_mod]

theorem toNat_and_ramMask (a : Addr) : (a &&& 0xFFFF).toNat = a.toNat % 0x10000 := toNat_and_lowBits 16 a _ rfl

theorem toNat_and_romMask (a : Addr) : (a &&& 0x3FFFFF).toNat = a.toNat % 0x400000 := toNat_and_lowBits 22 a _ rfl

/-- R107: a wide access drops bit 0. -/
theorem toNat_evenAddr (a : Addr) : (evenAddr a).toNat = a.toNat / 2 * 2 := by
  have h : (a &&& 0xFFFFFE == evenAddr a) = true := beq_self_eq_true _
  rw [masked_eq 1 a 0xFFFFFE (evenAddr a) (by decide), decide_eq_true_iff] at h
  exact h.symm

/-- The second byte of an even address lies in the same 64 KiB: R212's index does not wrap inside a word. -/
theorem ramIndex_evenAddr_succ (a : Addr) :
    (evenAddr a + 1 &&& 0xFFFF).toNat = (evenAddr a &&& 0xFFFF).toNat + 1 := by
  rw [toNat_and_ramMask, toNat_and_ramMask, BitVec.toNat_add, toNat_evenAddr, show (1 : Addr).toNat = 1 from rfl]
  omega

/-- The second half of a long access is at the same even address, counted from the even address or from the given one. -/
theorem evenAddr_evenAddr_add_two (a : Addr) : evenAddr (evenAddr a + 2) = evenAddr (a + 2) := by
  apply BitVec.eq_of_toNat_eq
  rw [toNat_evenAddr, toNat_evenAddr, BitVec.toNat_add, BitVec.toNat_add, toNat_evenAddr,
    show (2 : Addr).toNat = 2 from rfl]
  omega

theorem evenAddr_evenAddr (a : Addr) : evenAddr (evenAddr a) = evenAddr a := by
  apply BitVec.eq_of_toNat_eq
  rw [toNat_evenAddr, toNat_evenAddr]
  omega

theorem busAddr_add_two (a : Long) : busAddr (a + 2) = busAddr a + 2 := BitVec.setWidth_add a 2 (by decide)

/-! ### What transactions keep -/

/-- Settles O12, by the frame that every row but the host's four answers in. -/
theorem transactionsKeepTheRest : Obligations.TransactionsKeepTheRest := exec_answersInFrame

/-- The outcome is a next state with the ROM of `s`. -/
def AnswersWithRom (s : State) (o : Host.Outcome State Fault Refusal) : Prop :=
  ∃ t, o = .next t ∧ t.bus.rom = s.bus.rom ∧ t.bus.romSize = s.bus.romSize

/-- The step may start in a state `s'` with the bus of `s`: what a frame's lines keep, they keep of the state after its
start. -/
theorem answersWithRom_finish {s s' t : State} (hbus : s'.bus = s.bus) (h : LineStep s' t) : AnswersWithRom s (finish t) :=
  ⟨_, rfl, h.rom.trans (congrArg BusState.rom hbus), h.romSize.trans (congrArg BusState.romSize hbus)⟩

/-- A line and a frame by their parts, a reset by what it restores, and every other row by its bus frame. -/
theorem exec_answersWithRom (i : Instr) (s : State) (hload : ∀ b, i ≠ .loadCartridge b) :
    AnswersWithRom s (exec i s) := by
  by_cases hline : ∃ y, i = .renderLine y
  · obtain ⟨y, rfl⟩ := hline
    exact answersWithRom_finish rfl (lineStep_renderVisible s y.toNat)
  by_cases hframe : i = .runFrame
  · subst hframe
    exact answersWithRom_finish (frameStart_bus s) (lineStep_runFrame s)
  by_cases hreset : i = .reset
  · subst hreset
    exact ⟨_, rfl, rfl, rfl⟩
  obtain ⟨t, ht, hkeep⟩ := exec_answersInFrame i s (not_exists.mp hline) hframe hreset hload
  exact ⟨t, ht, hkeep.rom, hkeep.romSize⟩

/-- Settles O13: the outcome of a row is one, so the next state is the one that keeps the ROM. -/
theorem romChangesOnlyByLoad : Obligations.RomChangesOnlyByLoad := by
  intro i s t hload hexec
  obtain ⟨u, hu, hrom⟩ := exec_answersWithRom i s hload
  obtain rfl : t = u := by simpa [hexec] using hu
  exact hrom

/-! ### Replies -/

/-- A later reply stands in place of an earlier one. -/
@[simp] theorem replied_replied (s : State) (q r : Reply) : (s.replied q).replied r = s.replied r := rfl

/-! ### The memories of the bus -/

/-- R201: a ROM byte, with the image's offset as the spec writes it. -/
theorem romByte_eq (b : BusState) (a : Addr) : b.romByte a =
    if (a &&& 0x3FFFFF).toNat < b.romSize then b.rom.read (a &&& 0x3FFFFF).toNat else 0xFF := by
  rw [toNat_and_romMask]
  rfl

/-- R212: a work-RAM byte, with its index as the spec writes it. -/
theorem ramByte_eq (b : BusState) (a : Addr) : b.ramByte a = b.wram.read (a &&& 0xFFFF).toNat := by
  rw [toNat_and_ramMask]
  rfl

theorem ramByte_evenAddr_succ (b : BusState) (a : Addr) :
    b.ramByte (evenAddr a + 1) = b.wram.read ((evenAddr a &&& 0xFFFF).toNat + 1) := by
  rw [ramByte_eq, ramIndex_evenAddr_succ]

/-- R212: every byte of work RAM after a store. -/
theorem read_ramStore (b : BusState) (a : Addr) (v : Byte) (k : Nat) :
    (b.ramStore a v).wram.read k = if k = (a &&& 0xFFFF).toNat then v else b.wram.read k := by
  rw [ramStore_wram, read_write, toNat_and_ramMask]

/-- R218: every byte of work RAM after the two stores of a word. -/
theorem read_ramStore_word (b : BusState) (a : Addr) (hi lo : Byte) (k : Nat) :
    ((b.ramStore (evenAddr a) hi).ramStore (evenAddr a + 1) lo).wram.read k =
      if k = (evenAddr a &&& 0xFFFF).toNat then hi
      else if k = (evenAddr a &&& 0xFFFF).toNat + 1 then lo else b.wram.read k := by
  rw [read_ramStore, read_ramStore, ramIndex_evenAddr_succ]
  by_cases hk : k = (evenAddr a &&& 0xFFFF).toNat
  · rw [if_neg (by omega)]
    simp only [if_pos hk]
  · simp only [if_neg hk]

/-- R204: the index of a sound-RAM byte, in numbers. -/
theorem soundIndex_eq (mask : Word) (a : Addr) : soundIndex mask a = a.toNat % 0x10000 &&& mask.toNat := by
  unfold soundIndex
  rw [BitVec.toNat_and, BitVec.toNat_setWidth]

/-- R204: every byte of sound RAM after a store. -/
theorem read_soundStore (b : BusState) (mask : Word) (a : Addr) (v : Byte) (k : Nat) :
    (b.soundStore mask a v).sram.read k = if k = a.toNat % 0x10000 &&& mask.toNat then v else b.sram.read k := by
  rw [soundStore_sram, read_write, soundIndex_eq]

/-- R204: the default mask keeps 13 bits, which 0x2000 is beyond. -/
theorem soundIndex_default_mirror (a : Addr) : soundIndex 0x1FFF (a + 0x2000) = soundIndex 0x1FFF a := by
  have hmask (n : Nat) : n &&& (0x1FFF : Word).toNat = n % 0x2000 := Nat.and_two_pow_sub_one_eq_mod n 13
  rw [soundIndex_eq, soundIndex_eq, hmask, hmask, BitVec.toNat_add, show (0x2000 : Addr).toNat = 0x2000 from rfl]
  omega

/-! ### The regions' byte accesses -/

/-- Settles O14: the three rows read the same image, and none stores. -/
theorem romRegions : Obligations.RomRegions := by
  intro s a b
  constructor
  · intro i hi
    have hread : exec i s = answer s (.byte (s.bus.romByte a)) := by fin_cases hi <;> rfl
    rw [hread, romByte_eq]
    rfl
  · intro i hi
    fin_cases hi <;> rfl

/-- Settles O15: the store writes one byte of work RAM and nothing else. -/
theorem workRamRegion : Obligations.WorkRamRegion := by
  intro s a b
  constructor
  · rw [← ramByte_eq]
    rfl
  · exact ⟨_, rfl, rfl, read_ramStore s.bus a b⟩

/-- Settles O16: the handlers do not look at busReq, and the default mask drops the bit that the mirror adds. -/
theorem soundRamRegion : Obligations.SoundRamRegion := by
  intro s a b
  have hread (a : Addr) : exec (.regionSoundram a .read) s =
    answer s (.byte (s.bus.sram.read (soundIndex s.cfg.soundRamMask a))) := rfl
  refine ⟨?read, ?write, ?mirror⟩
  case read => rw [hread, soundIndex_eq]; rfl
  case write => exact ⟨_, rfl, rfl, read_soundStore s.bus s.cfg.soundRamMask a b⟩
  case mirror =>
    intro hmask
    rw [hread, hread, hmask, soundIndex_default_mirror]

/-- Settles O17: each access is one draw or none and one call. -/
theorem synthAndIoRegions : Obligations.SynthAndIoRegions := fun _ _ _ => ⟨rfl, rfl, rfl, rfl⟩

/-- Settles O21: the handlers of these regions neither look at the state nor change it. -/
theorem unmappedRegions : Obligations.UnmappedRegions := by
  intro s a b
  constructor <;> intro i hi <;> fin_cases hi <;> rfl

/-! ### The control registers -/

/-! R209 and R210 by the address's bit 0. -/

theorem busReqWrite_even (s : State) {a : Addr} (h : a.getLsbD 0 = false) (b : Byte) : s.busReqWrite a b =
    { s with bus := { s.bus with busReq := b.getLsbD 0 } }.call (.setBusRequest (b.getLsbD 0)) := by
  unfold State.busReqWrite
  rw [h, if_neg Bool.false_ne_true]

theorem busReqWrite_odd (s : State) {a : Addr} (h : a.getLsbD 0 = true) (b : Byte) : s.busReqWrite a b = s := by
  unfold State.busReqWrite
  rw [h, if_pos rfl]

/-- Bit 0 is 0 when the bus is granted, which the model and the statement write in two ways. -/
theorem busReqRead_even (s : State) {a : Addr} (h : a.getLsbD 0 = false) : s.busReqRead a =
    ((s.draw 7).1 ++ (if s.bus.busReq then 0#1 else 1#1), (s.draw 7).2) := by
  unfold State.busReqRead
  rw [h, if_neg Bool.false_ne_true]
  cases s.bus.busReq <;> rfl

theorem busReqRead_odd (s : State) {a : Addr} (h : a.getLsbD 0 = true) : s.busReqRead a = s.draw 8 := by
  unfold State.busReqRead
  rw [h, if_pos rfl]

theorem soundResetWrite_even (s : State) {a : Addr} (h : a.getLsbD 0 = false) (b : Byte) : s.soundResetWrite a b =
    { s with bus := { s.bus with soundReset := b.getLsbD 0 } }.call (.setReset (!b.getLsbD 0)) := by
  unfold State.soundResetWrite
  rw [h, if_neg Bool.false_ne_true]

theorem soundResetWrite_odd (s : State) {a : Addr} (h : a.getLsbD 0 = true) (b : Byte) : s.soundResetWrite a b = s := by
  unfold State.soundResetWrite
  rw [h, if_pos rfl]

/-- Settles O19: the two registers' accesses by bit 0 of the address. -/
theorem busRequestRegister : Obligations.BusRequestRegister := by
  intro s a b
  have hwrite : exec (.regionBusreq a (.write b)) s = finish (s.busReqWrite a b) := rfl
  have hread : exec (.regionBusreq a .read) s = answer (s.busReqRead a).2 (.byte (s.busReqRead a).1) := rfl
  rw [hwrite, hread]
  constructor <;> intro h
  · rw [busReqWrite_even s h, busReqRead_even s h]
    exact ⟨rfl, rfl⟩
  · rw [busReqWrite_odd s h, busReqRead_odd s h]
    exact ⟨rfl, rfl⟩

/-- Settles O20: a write by bit 0 of the address, a read a draw at every address. -/
theorem soundResetRegister : Obligations.SoundResetRegister := by
  intro s a b
  have hwrite : exec (.regionSoundreset a (.write b)) s = finish (s.soundResetWrite a b) := rfl
  rw [hwrite]
  refine ⟨fun h => ?_, fun h => ?_, rfl⟩
  · rw [soundResetWrite_even s h]
    rfl
  · rw [soundResetWrite_odd s h]
    rfl

/-! ### The bank register -/

/-- R206: the new bit comes in at bit 8, the others move one down. -/
theorem getLsbD_bankShift (bank : BitVec 9) (b : Byte) {k : Nat} (hk : k < 9) :
    (bankShift bank b).getLsbD k = if k = 8 then b.getLsbD 0 else bank.getLsbD (k + 1) := by
  unfold bankShift
  interval_cases k <;> simp

/-- The bank after any number of writes: bit `k` is bit `k + n` of the old bank followed by the `n` bits written. -/
theorem getLsbD_foldl_bankShift (bs : List Byte) (bank : BitVec 9) {k : Nat} (hk : k < 9) :
    (bs.foldl bankShift bank).getLsbD k =
      if k + bs.length < 9 then bank.getLsbD (k + bs.length) else (bs.getD (k + bs.length - 9) 0).getLsbD 0 := by
  induction bs generalizing bank with
  | nil => simp [hk]
  | cons b bs ih =>
    rw [List.foldl_cons, ih, List.length_cons]
    rcases Nat.lt_trichotomy (k + bs.length) 8 with hlt | heq | hgt
    · rw [if_pos (by omega), if_pos (by omega), getLsbD_bankShift _ _ (by omega), if_neg (by omega)]
      rfl
    · rw [if_pos (by omega), if_neg (by omega), getLsbD_bankShift _ _ (by omega), if_pos heq,
        show k + (bs.length + 1) - 9 = 0 by omega]
      rfl
    · rw [if_neg (by omega), if_neg (by omega), show k + (bs.length + 1) - 9 = k + bs.length - 9 + 1 by omega]
      rfl

/-- The state after a write of the bank register that leaves `bank` in it. -/
def withBank (s : State) (bank : BitVec 9) : State :=
  { s with bus := { s.bus with bank := bank }, env := { s.env with reply := .done } }

theorem exec_bankWrite (s : State) (a : Addr) (b : Byte) :
    exec (.regionSoundbank a (.write b)) s = .next (withBank s (bankShift s.bus.bank b)) := rfl

theorem execAll_cons {i : Instr} {s t : State} (h : exec i s = .next t) (is : List Instr) :
    execAll (i :: is) s = execAll is t := by
  unfold execAll
  rw [h]
  cases is <;> rfl

/-- Bank writes in a row leave the last bank and touch nothing else. -/
theorem execAll_bankWrites (a : Addr) (b : Byte) (bs : List Byte) (s : State) :
    execAll ((b :: bs).map fun b => .regionSoundbank a (.write b)) s =
      .next (withBank s ((b :: bs).foldl bankShift s.bus.bank)) := by
  induction bs generalizing b s with
  | nil => rfl
  | cons c bs ih =>
    rw [List.map_cons, execAll_cons (exec_bankWrite s a b), ih]
    rfl

/-- Settles O18: after nine writes no bit of the old bank is left. -/
theorem bankRegister : Obligations.BankRegister := by
  intro s a
  refine ⟨rfl, fun b => rfl, fun bs hlen => ?_⟩
  refine ⟨withBank s (bs.foldl bankShift s.bus.bank), ?_, rfl, fun k => ?_⟩
  · obtain ⟨b, bs, rfl⟩ := List.exists_cons_of_length_eq_add_one hlen
    exact execAll_bankWrites a b bs s
  · show (bs.foldl bankShift s.bus.bank).getLsbD k = _
    rw [getLsbD_foldl_bankShift _ _ k.isLt, hlen, if_neg (by omega), Nat.add_sub_cancel,
      List.getD_eq_getElem _ _ (by omega)]
    rfl

/-! ### Byte transactions -/

/-- R148, R200: the row of an address runs the byte handler of the address's region. -/
theorem exec_decodeAddr (a : Addr) (acc : Access 8) (s : State) :
    exec (decodeAddr a acc) s = s.regionAccess (classify a.toNat) a acc := by
  rw [classify_eq_region]
  unfold decodeAddr
  cases addrRow a <;> rfl

/-- Settles O22: both run the handler of the address's region. -/
theorem byteTransactions : Obligations.ByteTransactions := by
  intro s a b
  rw [exec_decodeAddr, exec_decodeAddr]
  exact ⟨rfl, rfl⟩

/-! ### Word transactions, by region -/

theorem exec_decodePort (off : BitVec 5) (acc : Access 16) (s : State) :
    exec (decodePort off acc) s = s.portAccess off acc := by
  unfold decodePort
  cases portRow off <;> rfl

section WordAccess

variable (s : State) {a : Addr} {r : Region} (h : classify (evenAddr a).toNat = r)

include h

/-! R215. -/

theorem busRead16_rom (hr : r ∈ [.rom, .romMirror]) :
    s.busRead16 a = (s.bus.romByte (evenAddr a) ++ s.bus.romByte (evenAddr a + 1), s) := by
  unfold State.busRead16
  fin_cases hr <;> simp only [h] <;> rfl

theorem busRead16_ram (hr : r = .ram) : s.busRead16 a =
    (s.bus.wram.read (evenAddr a &&& 0xFFFF).toNat ++ s.bus.wram.read ((evenAddr a &&& 0xFFFF).toNat + 1), s) := by
  rw [← ramByte_eq, ← ramByte_evenAddr_succ]
  unfold State.busRead16
  simp only [h, hr]
  rfl

theorem busRead16_twice (hr : r ∈ [.soundRam, .synth, .soundBank, .io, .busReq, .soundReset]) :
    s.busRead16 a = s.readTwice r (evenAddr a) := by
  unfold State.busRead16
  fin_cases hr <;> simp only [h]

theorem busRead16_vdp (hr : r = .vdp) : s.busRead16 a = s.vdpRead16 ((evenAddr a).extractLsb' 0 5) := by
  unfold State.busRead16
  simp only [h, hr]

theorem busRead16_unmapped (hr : r ∈ [.soundVdp, .soundRomView, .unmapped]) : s.busRead16 a = (0xFFFF, s) := by
  unfold State.busRead16
  fin_cases hr <;> simp only [h]

/-! R218. -/

theorem busWrite16_ram (hr : r = .ram) (v : Word) : s.busWrite16 a v =
    { s with bus := (s.bus.ramStore (evenAddr a) (hiByte v)).ramStore (evenAddr a + 1) (loByte v) } := by
  unfold State.busWrite16
  simp only [h, hr]
  rfl

theorem busWrite16_hiByte (hr : r ∈ [.soundRam, .synth, .soundBank, .busReq, .soundReset]) (v : Word) :
    s.busWrite16 a v = s.wr8 r (evenAddr a) (hiByte v) := by
  unfold State.busWrite16
  fin_cases hr <;> simp only [h]

theorem busWrite16_io (hr : r = .io) (v : Word) : s.busWrite16 a v = s.wr8 .io (evenAddr a) (loByte v) := by
  unfold State.busWrite16
  simp only [h, hr]

theorem busWrite16_vdp (hr : r = .vdp) (v : Word) :
    s.busWrite16 a v = s.vdpWrite16 ((evenAddr a).extractLsb' 0 5) v := by
  unfold State.busWrite16
  simp only [h, hr]

theorem busWrite16_ignored (hr : r ∈ [.rom, .romMirror, .soundVdp, .soundRomView, .unmapped]) (v : Word) :
    s.busWrite16 a v = s := by
  unfold State.busWrite16
  fin_cases hr <;> simp only [h]

/-! R222. -/

theorem dmaSourceRead16_rom (hr : r ∈ [.rom, .romMirror]) :
    s.dmaSourceRead16 a = (s.bus.romByte (evenAddr a) ++ s.bus.romByte (evenAddr a + 1), s) := by
  unfold State.dmaSourceRead16
  unfold evenAddr at h
  fin_cases hr <;> simp only [h] <;> rfl

theorem dmaSourceRead16_ram (hr : r = .ram) : s.dmaSourceRead16 a =
    (s.bus.wram.read (evenAddr a &&& 0xFFFF).toNat ++ s.bus.wram.read ((evenAddr a &&& 0xFFFF).toNat + 1), s) := by
  rw [← ramByte_eq, ← ramByte_evenAddr_succ]
  unfold State.dmaSourceRead16
  unfold evenAddr at h
  simp only [h, hr]
  rfl

theorem dmaSourceRead16_device (hrom : r ≠ .rom) (hmirror : r ≠ .romMirror) (hram : r ≠ .ram) :
    s.dmaSourceRead16 a = s.draw 16 := by
  unfold State.dmaSourceRead16
  unfold evenAddr at h
  cases r
  case rom | romMirror | ram => contradiction
  all_goals simp only [h]

end WordAccess

theorem exec_read16 (a : Long) (s : State) :
    exec (.read16 a) s = answer (s.busRead16 (busAddr a)).2 (.word (s.busRead16 (busAddr a)).1) := rfl

theorem exec_write16 (a : Long) (v : Word) (s : State) :
    exec (.write16 a v) s = finish (s.busWrite16 (busAddr a) v) := rfl

/-- Settles O23: R215's classes of regions, each by its rule. -/
theorem wordReads : Obligations.WordReads := by
  intro s a e
  have h : classify (evenAddr (busAddr a)).toNat = (addrRow e).region := classify_eq_region e
  have hbyte : exec (decodeAddr e .read) s = s.regionAccess (addrRow e).region e .read := by
    rw [exec_decodeAddr, classify_eq_region]
  generalize (addrRow e).region = r at h hbyte ⊢
  rw [exec_read16]
  cases r
  case rom | romMirror =>
    rw [busRead16_rom s h (by decide)]
    rfl
  case ram =>
    rw [busRead16_ram s h rfl]
    rfl
  case soundRam | synth | soundBank | io | busReq | soundReset =>
    rw [busRead16_twice s h (by decide)]
    exact ⟨_, _, hbyte, rfl, rfl⟩
  case vdp =>
    rw [busRead16_vdp s h rfl]
    exact (exec_decodePort _ .read s).symm
  case soundVdp | soundRomView | unmapped =>
    rw [busRead16_unmapped s h (by decide)]
    rfl

/-- Settles O24: R218's classes of regions, each by its rule. -/
theorem wordWrites : Obligations.WordWrites := by
  intro s a v e
  have h : classify (evenAddr (busAddr a)).toNat = (addrRow e).region := classify_eq_region e
  have hbyte (b : Byte) : exec (decodeAddr e (.write b)) s = finish (s.wr8 (addrRow e).region e b) := by
    rw [exec_decodeAddr, classify_eq_region]
    rfl
  generalize (addrRow e).region = r at h hbyte ⊢
  rw [exec_write16]
  cases r
  case ram =>
    rw [busWrite16_ram s h rfl]
    exact ⟨_, rfl, rfl, read_ramStore_word s.bus (busAddr a) (hiByte v) (loByte v)⟩
  case rom | romMirror | soundVdp | soundRomView | unmapped =>
    rw [busWrite16_ignored s h (by decide)]
    rfl
  case soundRam | synth | soundBank | busReq | soundReset =>
    rw [busWrite16_hiByte s h (by decide)]
    exact (hbyte _).symm
  case io =>
    rw [busWrite16_io s h rfl]
    exact (hbyte _).symm
  case vdp =>
    rw [busWrite16_vdp s h rfl]
    exact (exec_decodePort _ (.write v) s).symm

/-- Settles O27: R222's three classes of regions. -/
theorem dmaSourceRead : Obligations.DmaSourceRead := by
  intro s src e
  have h : classify (evenAddr src).toNat = (addrRow e).region := classify_eq_region e
  generalize (addrRow e).region = r at h ⊢
  have hexec : exec (.dmaSourceRead16 src) s =
    answer (s.dmaSourceRead16 src).2 (.word (s.dmaSourceRead16 src).1) := rfl
  rw [hexec]
  refine ⟨fun hr => ?_, fun hr => ?_, fun hrom hmirror hram => ?_⟩
  · rw [dmaSourceRead16_rom s h (by simpa using hr)]
    rfl
  · rw [dmaSourceRead16_ram s h hr]
    rfl
  · rw [dmaSourceRead16_device s h hrom hmirror hram]
    rfl

/-! ### Transactions do not look at the last reply -/

theorem dmaSourceRead16_replied (s : State) (r : Reply) (src : Addr) :
    (s.replied r).dmaSourceRead16 src = ((s.dmaSourceRead16 src).1, (s.dmaSourceRead16 src).2.replied r) := by
  unfold State.dmaSourceRead16
  dsimp only
  cases classify (src &&& 0xFFFFFE).toNat <;> rfl

theorem dma68kWord_replied (r : Reply) : Function.Commute (Prod.map (State.replied · r) id) dma68kWord := by
  intro ⟨s, src⟩
  unfold dma68kWord
  simp only [Prod.map_apply, dmaSourceRead16_replied]
  rfl

theorem dma68k_replied (s : State) (r : Reply) : (s.replied r).dma68k = s.dma68k.replied r := by
  have hrun := (dma68kWord_replied r).iterate_right s.vdp.dmaLength (s, s.vdp.cpuSource)
  unfold State.dma68k
  simp only [Prod.map_apply, id, replied_vdp] at hrun ⊢
  rw [← hrun]
  rfl

theorem triggerDma_replied (s : State) (r : Reply) : (s.replied r).triggerDma = s.triggerDma.replied r := by
  unfold State.triggerDma
  rw [replied_vdp, dma68k_replied]
  cases dmaModeOf s.vdp.dmaMode <;> rfl

theorem cmdWord2_replied (s : State) (r : Reply) (cd52 : BitVec 4) (a : BitVec 2) :
    (s.replied r).cmdWord2 cd52 a = (s.cmdWord2 cd52 a).replied r := by
  have htrigger := triggerDma_replied { s with vdp := s.vdp.cmdWord2 cd52 a } r
  unfold State.cmdWord2
  rw [replied_vdp]
  dsimp only
  cases (s.vdp.cmdWord2 cd52 a).code.getLsbD 5 && (s.vdp.cmdWord2 cd52 a).dmaEnable
  case true => exact htrigger
  case false => rfl

theorem hvRead_replied (s : State) (r : Reply) : (s.replied r).hvRead = (s.hvRead.1, s.hvRead.2.replied r) := by
  unfold State.hvRead
  rw [replied_vdp]
  cases s.vdp.hvLatched <;> rfl

theorem hvLatchUpdate_replied (s : State) (r : Reply) (old v : Byte) :
    (s.replied r).hvLatchUpdate old v = (s.hvLatchUpdate old v).replied r := by
  unfold State.hvLatchUpdate
  by_cases h : old.getLsbD 1 = false ∧ v.getLsbD 1 = true
  · rw [if_pos h, if_pos h]
    rfl
  · rw [if_neg h, if_neg h]

theorem regStore_replied (s : State) (r : Reply) (i : BitVec 5) (v : Byte) :
    (s.replied r).regStore i v = (s.regStore i v).replied r := by
  have hlatch := hvLatchUpdate_replied { s with vdp := s.vdp.setR i.toFin v } r (s.vdp.r i.toFin) v
  unfold State.regStore
  rw [replied_vdp]
  cases s.vdp.regWritable i
  case false => rfl
  case true =>
    by_cases h : i = 0
    · simp only [if_pos h]
      exact hlatch
    · simp only [if_neg h]
      rfl

theorem regWrite_replied (s : State) (r : Reply) (i : BitVec 5) (v : Byte) :
    (s.replied r).regWrite i v = (s.regWrite i v).replied r := by
  unfold State.regWrite
  rw [regStore_replied]
  rfl

theorem ctrlWrite_replied (s : State) (r : Reply) (w : Word) :
    (s.replied r).ctrlWrite w = (s.ctrlWrite w).replied r := by
  unfold State.ctrlWrite
  rw [cmdWord2_replied, regWrite_replied, replied_vdp]
  cases s.vdp.pending
  case true => rfl
  case false => cases w.extractLsb' 14 2 == 0b10 <;> rfl

theorem dataRead_replied (s : State) (r : Reply) : (s.replied r).dataRead = (s.dataRead.1, s.dataRead.2.replied r) := by
  unfold State.dataRead
  rw [replied_vdp]
  cases readRow s.vdp.code <;> rfl

theorem vdpRead16_replied (s : State) (r : Reply) (off : BitVec 5) :
    (s.replied r).vdpRead16 off = ((s.vdpRead16 off).1, (s.vdpRead16 off).2.replied r) := by
  unfold State.vdpRead16
  rw [dataRead_replied, hvRead_replied]
  cases portRow off <;> rfl

theorem vdpWrite16_replied (s : State) (r : Reply) (off : BitVec 5) (v : Word) :
    (s.replied r).vdpWrite16 off v = (s.vdpWrite16 off v).replied r := by
  unfold State.vdpWrite16
  rw [ctrlWrite_replied]
  cases portRow off <;> rfl

theorem rd8_replied (s : State) (q : Reply) (r : Region) (a : Addr) :
    (s.replied q).rd8 r a = ((s.rd8 r a).1, (s.rd8 r a).2.replied q) := by
  cases r
  case busReq =>
    show (s.replied q).busReqRead a = ((s.busReqRead a).1, (s.busReqRead a).2.replied q)
    unfold State.busReqRead
    cases a.getLsbD 0 <;> rfl
  case vdp =>
    show (s.replied q).vdpRead8 _ = ((s.vdpRead8 _).1, (s.vdpRead8 _).2.replied q)
    unfold State.vdpRead8
    rw [vdpRead16_replied]
  all_goals rfl

theorem wr8_replied (s : State) (q : Reply) (r : Region) (a : Addr) (b : Byte) :
    (s.replied q).wr8 r a b = (s.wr8 r a b).replied q := by
  cases r
  case busReq =>
    show (s.replied q).busReqWrite a b = (s.busReqWrite a b).replied q
    unfold State.busReqWrite
    cases a.getLsbD 0 <;> rfl
  case soundReset =>
    show (s.replied q).soundResetWrite a b = (s.soundResetWrite a b).replied q
    unfold State.soundResetWrite
    cases a.getLsbD 0 <;> rfl
  case vdp => exact vdpWrite16_replied s q _ _
  all_goals rfl

theorem readTwice_replied (s : State) (q : Reply) (r : Region) (e : Addr) :
    (s.replied q).readTwice r e = ((s.readTwice r e).1, (s.readTwice r e).2.replied q) := by
  unfold State.readTwice
  rw [rd8_replied]

theorem busRead16_replied (s : State) (q : Reply) (a : Addr) :
    (s.replied q).busRead16 a = ((s.busRead16 a).1, (s.busRead16 a).2.replied q) := by
  unfold State.busRead16
  simp only [readTwice_replied, vdpRead16_replied]
  cases classify (evenAddr a).toNat <;> rfl

theorem busWrite16_replied (s : State) (q : Reply) (a : Addr) (v : Word) :
    (s.replied q).busWrite16 a v = (s.busWrite16 a v).replied q := by
  unfold State.busWrite16
  simp only [wr8_replied, vdpWrite16_replied]
  cases classify (evenAddr a).toNat <;> rfl

/-! ### Long transactions -/

/-! A word access sees the even address alone. -/

theorem busRead16_of_evenAddr {a b : Addr} (h : evenAddr a = evenAddr b) (s : State) : s.busRead16 a = s.busRead16 b := by
  unfold State.busRead16
  rw [h]

theorem busWrite16_of_evenAddr {a b : Addr} (h : evenAddr a = evenAddr b) (s : State) (v : Word) :
    s.busWrite16 a v = s.busWrite16 b v := by
  unfold State.busWrite16
  rw [h]

/-- R216: the two halves of a long read, at the given address and two on. -/
theorem busRead32_eq (s : State) (a : Addr) : s.busRead32 a =
    ((s.busRead16 a).1 ++ ((s.busRead16 a).2.busRead16 (a + 2)).1, ((s.busRead16 a).2.busRead16 (a + 2)).2) := by
  unfold State.busRead32
  simp only [busRead16_of_evenAddr (evenAddr_evenAddr a), busRead16_of_evenAddr (evenAddr_evenAddr_add_two a)]

/-- R219: the two halves of a long write, at the given address and two on. -/
theorem busWrite32_eq (s : State) (a : Addr) (v : Long) :
    s.busWrite32 a v = (s.busWrite16 a (hiWord v)).busWrite16 (a + 2) (loWord v) := by
  unfold State.busWrite32
  rw [busWrite16_of_evenAddr (evenAddr_evenAddr a), busWrite16_of_evenAddr (evenAddr_evenAddr_add_two a)]

/-- Settles O25: a long access differs from its two word accesses in the reply between them, which the second does not see. -/
theorem longTransactions : Obligations.LongTransactions := by
  intro s a v
  constructor
  · have hlong : exec (.write32 a v) s = finish (s.busWrite32 (busAddr a) v) := rfl
    rw [hlong, busWrite32_eq, execAll_cons (exec_write16 a _ s), execAll_cons (exec_write16 (a + 2) _ _),
      busWrite16_replied, busAddr_add_two]
    rfl
  · have hlong : exec (.read32 a) s = answer (s.busRead32 (busAddr a)).2 (.long (s.busRead32 (busAddr a)).1) := rfl
    have hlo := exec_read16 (a + 2) ((s.busRead16 (busAddr a)).2.replied (.word (s.busRead16 (busAddr a)).1))
    rw [busRead16_replied, busAddr_add_two] at hlo
    rw [hlong, busRead32_eq]
    exact ⟨_, _, _, _, exec_read16 a s, rfl, hlo, rfl, rfl⟩

/-! ### Sound-CPU transactions -/

theorem toNat_soundWindowAddr (z : Word) : (soundWindowAddr z).toNat = 0xA00000 + z.toNat := by
  unfold soundWindowAddr
  rw [BitVec.toNat_append, ← Nat.shiftLeft_add_eq_or_of_lt z.isLt]
  rfl

/-- R220: what the sound CPU's low half shows of the sound window. -/
theorem classify_soundWindowAddr {z : Word} (h : z.toNat < 0x8000) : classify (soundWindowAddr z).toNat =
    if z.toNat ≤ 0x3FFF then .soundRam else if z.toNat ≤ 0x5FFF then .synth else if z.toNat ≤ 0x60FF then .soundBank
    else if z.toNat ≤ 0x7EFF then .unmapped else .soundVdp := by
  have htop : (0xA00000 + z.toNat) % 0x1000000 / 0x10000 = 0xA0 := by omega
  have hlo : (0xA00000 + z.toNat) % 0x1000000 % 0x10000 = z.toNat := by omega
  have hend : z.toNat ≤ 0x7FFF := by omega
  rw [toNat_soundWindowAddr]
  unfold classify
  simp only [htop, hlo, if_pos hend]
  rfl

theorem inSoundWindow_iff (t : Addr) : inSoundWindow t = true ↔ 0xA00000 ≤ t.toNat ∧ t.toNat ≤ 0xA0FFFF := by
  simp [inSoundWindow]

/-! R220 and R221 by the range of the sound address. -/

theorem soundRead8_window (s : State) {z : Word} (h : z.toNat < 0x7F00) :
    s.soundRead8 z = s.busRead8 (soundWindowAddr z) := by
  have hregion := classify_soundWindowAddr (z := z) (by omega)
  rw [if_pos (show z.toNat ≤ 0x7EFF by omega)] at hregion
  unfold State.soundRead8 State.busRead8
  rw [if_pos (by omega), hregion]
  split_ifs <;> rfl

theorem soundWrite8_window (s : State) {z : Word} (h : z.toNat < 0x7F00) (b : Byte) :
    s.soundWrite8 z b = s.busWrite8 (soundWindowAddr z) b := by
  have hregion := classify_soundWindowAddr (z := z) (by omega)
  rw [if_pos (show z.toNat ≤ 0x7EFF by omega)] at hregion
  unfold State.soundWrite8 State.busWrite8
  rw [if_pos (by omega), hregion]
  split_ifs <;> rfl

theorem classify_soundWindowAddr_vdp {z : Word} (hle : 0x7F00 ≤ z.toNat) (hlt : z.toNat < 0x8000) :
    classify (soundWindowAddr z).toNat = .soundVdp := by
  rw [classify_soundWindowAddr hlt, if_neg (by omega), if_neg (by omega), if_neg (by omega), if_neg (by omega)]

theorem soundRead8_vdp (s : State) {z : Word} (hle : 0x7F00 ≤ z.toNat) (hlt : z.toNat < 0x8000) :
    s.soundRead8 z = s.vdpRead8 (z.extractLsb' 0 5) := by
  unfold State.soundRead8
  rw [if_pos hlt, classify_soundWindowAddr_vdp hle hlt]

theorem soundWrite8_vdp (s : State) {z : Word} (hle : 0x7F00 ≤ z.toNat) (hlt : z.toNat < 0x8000) (b : Byte) :
    s.soundWrite8 z b = s.vdpWrite8 (z.extractLsb' 0 5) b := by
  unfold State.soundWrite8
  rw [if_pos hlt, classify_soundWindowAddr_vdp hle hlt]

theorem soundRead8_bank (s : State) {z : Word} (h : 0x8000 ≤ z.toNat) : s.soundRead8 z =
    if inSoundWindow (bankTarget s.bus.bank z) then (0xFF, s) else s.busRead8 (bankTarget s.bus.bank z) := by
  unfold State.soundRead8
  rw [if_neg (by omega)]

theorem soundWrite8_bank (s : State) {z : Word} (h : 0x8000 ≤ z.toNat) (b : Byte) : s.soundWrite8 z b =
    if inSoundWindow (bankTarget s.bus.bank z) then s else s.busWrite8 (bankTarget s.bus.bank z) b := by
  unfold State.soundWrite8
  rw [if_neg (by omega)]

/-- Settles O26: the ranges of R220 and R221, and in the bank window whether the target lies in the sound window. -/
theorem soundTransactions : Obligations.SoundTransactions := by
  intro s z b t
  have hread : exec (.sread8 z) s = answer (s.soundRead8 z).2 (.byte (s.soundRead8 z).1) := rfl
  have hwrite : exec (.swrite8 z b) s = finish (s.soundWrite8 z b) := rfl
  have hwindow : inSoundWindow (bankTarget s.bus.bank z) = true ↔ 0xA00000 ≤ t.toNat ∧ t.toNat ≤ 0xA0FFFF :=
    inSoundWindow_iff t
  rw [hread, hwrite, ← hwindow, exec_decodeAddr, exec_decodeAddr, exec_decodeAddr, exec_decodeAddr]
  refine ⟨fun h => ?window, fun hle hlt => ?vdp, fun h hin => ?soundWindow, fun h hout => ?bank⟩
  case window =>
    rw [soundRead8_window s h, soundWrite8_window s h]
    exact ⟨rfl, rfl⟩
  case vdp =>
    rw [soundRead8_vdp s hle hlt, soundWrite8_vdp s hle hlt]
    exact ⟨rfl, rfl⟩
  case soundWindow =>
    rw [soundRead8_bank s h, soundWrite8_bank s h, if_pos hin, if_pos hin]
    exact ⟨rfl, rfl⟩
  case bank =>
    rw [soundRead8_bank s h, soundWrite8_bank s h, if_neg hout, if_neg hout]
    exact ⟨rfl, rfl⟩

end Sys2Proof.Proofs
end

section
/-! PROOFS. The statements of 41_vdp_ports.md: control words (O29-O31), data-port writes and reads (O32-O36), the counter,
PSG and unused ports (O38), and the byte and long forms of the ports (O39, O40). -/

namespace Sys2Proof.Proofs

open Sys2Proof.Machine Sys2Proof.Laws

/-! ### A field put into a word

The model concatenates the kept field and the new one; the statements mask the one and shift the other. -/

theorem extract_append_eq_or {m n : Nat} (x : BitVec (m + n)) (y : BitVec n) :
    x.extractLsb' n m ++ y = (x &&& BitVec.allOnes (m + n) <<< n) ||| y.setWidth (m + n) := by
  ext i hi
  by_cases h : i < n
  · simp [BitVec.getElem_append, h]
  · simp [BitVec.getElem_append, h, BitVec.getLsbD_of_ge y i (by omega), show n + (i - n) = i by omega,
      BitVec.getLsbD_eq_getElem hi]

theorem append_extract_eq_or {m n : Nat} (x : BitVec (m + n)) (y : BitVec m) :
    y ++ x.extractLsb' 0 n = (x &&& (BitVec.allOnes n).setWidth (m + n)) ||| y.setWidth (m + n) <<< n := by
  ext i hi
  by_cases h : i < n
  · simp [BitVec.getElem_append, h, BitVec.getLsbD_eq_getElem hi]
  · simp [BitVec.getElem_append, h, BitVec.getLsbD_eq_getElem (show i - n < m by omega)]

/-! ### Register writes -/

/-- R262, R264: a register-write word captures the H/V counter when it takes bit 1 of register 0 from 0 to 1. -/
def capturesHv (u : VdpState) (r : BitVec 5) (v : Byte) : Bool := r == 0 && !(u.r 0).getLsbD 1 && v.getLsbD 1

/-- The capture, made or not. -/
def withCapture (s : State) (captures : Bool) : State :=
  { s with
    vdp := { s.vdp with
      hvLatchValue := if captures then s.vLive ++ Config.freeBits 8 s.env.draws else s.vdp.hvLatchValue }
    env := { s.env with draws := if captures then s.env.draws + 1 else s.env.draws } }

theorem hvLatchUpdate_eq (s : State) (old v : Byte) :
    s.hvLatchUpdate old v = withCapture s (!old.getLsbD 1 && v.getLsbD 1) := by
  unfold State.hvLatchUpdate
  cases old.getLsbD 1 <;> cases v.getLsbD 1 <;> rfl

/-- R263: register 0 is always writable. -/
theorem regWritable_zero (u : VdpState) : u.regWritable 0 = true := rfl

theorem capturesHv_of_ne {r : BitVec 5} (h : r ≠ 0) (u : VdpState) (v : Byte) : capturesHv u r v = false := by
  simp only [capturesHv, beq_false_of_ne h, Bool.false_and]

/-- R262's guarded part: the register if it is writable, and the capture. -/
theorem regStore_eq (s : State) (r : BitVec 5) (v : Byte) : s.regStore r v =
    withCapture { s with vdp := if s.vdp.regWritable r then s.vdp.setR r.toFin v else s.vdp } (capturesHv s.vdp r v) := by
  unfold State.regStore
  by_cases h : r = 0
  · subst h
    rw [regWritable_zero, hvLatchUpdate_eq]
    rfl
  · rw [capturesHv_of_ne h]
    cases s.vdp.regWritable r
    case true => rw [if_neg h]; rfl
    case false => rfl

/-- R263: the registers after a register-write word. -/
theorem regStore_r (s : State) (r : BitVec 5) (v : Byte) (i : Fin 32) : (s.regStore r v).vdp.r i =
    if s.vdp.regWritable r = true ∧ i.val = r.toNat then v else s.vdp.r i := by
  rw [regStore_eq]
  show (if s.vdp.regWritable r then s.vdp.setR r.toFin v else s.vdp).r i = _
  cases s.vdp.regWritable r
  case true => simp [setR_r, Fin.ext_iff, eq_comm]
  case false => simp

/-- R262: all that a register-write word changes. -/
theorem regWrite_eq (s : State) (r : BitVec 5) (v : Byte) : s.regWrite r v =
    withCapture
      { s with vdp := { s.vdp with
          reg := (s.regStore r v).vdp.reg, code := s.vdp.code &&& 0x3C, addr := s.vdp.addr &&& 0xC000 } }
      (capturesHv s.vdp r v) := by
  unfold State.regWrite
  rw [regStore_eq]
  cases s.vdp.regWritable r <;> rfl

/-- Settles O29: register 0 is always writable, so the capture needs no guard of its own. -/
theorem registerWrite : Obligations.RegisterWrite := by
  intro s x r v writable captures
  refine ⟨(s.regWrite r v).replied .done, rfl, ?frame, ?registers⟩
  case frame =>
    conv_lhs => rw [regWrite_eq]
    rfl
  case registers => exact regStore_r s r v

/-! ### Command words -/

theorem cmdWord1_eq (u : VdpState) (cd10 : BitVec 2) (a : BitVec 14) : u.cmdWord1 cd10 a =
    { u with
      code := (u.code &&& 0x3C) ||| cd10.setWidth 6
      addr := (u.addr &&& 0xC000) ||| a.setWidth 16
      pending := true } := by
  unfold VdpState.cmdWord1
  rw [extract_append_eq_or (m := 4) u.code cd10, extract_append_eq_or (m := 2) u.addr a]
  rfl

theorem cmdWord2_eq (u : VdpState) (cd52 : BitVec 4) (a : BitVec 2) : u.cmdWord2 cd52 a =
    { u with
      code := (u.code &&& 0x03#6) ||| (cd52.setWidth 6 <<< 2)
      addr := (u.addr &&& 0x3FFF#16) ||| (a.setWidth 16 <<< 14)
      pending := false } := by
  unfold VdpState.cmdWord2
  rw [append_extract_eq_or (n := 2) u.code cd52, append_extract_eq_or (n := 14) u.addr a]
  rfl

/-- Settles O30: R267 keeps the high fields by mask as the model does by extraction. -/
theorem firstCommandWord : Obligations.FirstCommandWord := by
  intro s cd10 a
  rw [← cmdWord1_eq]
  rfl

/-- R268: the trigger bit of the resulting code is the top bit of the word's field. -/
theorem cmdWord2_code_trigger (u : VdpState) (cd52 : BitVec 4) (a : BitVec 2) :
    (u.cmdWord2 cd52 a).code.getLsbD 5 = cd52.getLsbD 3 := by
  rw [cmdWord2_code, BitVec.getLsbD_append]
  rfl

theorem exec_ctrlCmd2 (s : State) (x : Byte) (cd52 : BitVec 4) (y a : BitVec 2) :
    exec (.ctrlCmd2 x cd52 y a) s =
      finish (if cd52.getLsbD 3 && s.vdp.dmaEnable then { s with vdp := s.vdp.cmdWord2 cd52 a }.triggerDma
        else { s with vdp := s.vdp.cmdWord2 cd52 a }) := by
  rw [← cmdWord2_code_trigger s.vdp cd52 a]
  rfl

/-! R320: the run the mode of R23 bits 7:6 selects. -/

theorem dmaModeOf_of_not_bit1 (m : BitVec 2) (h : m.getLsbD 1 = false) : dmaModeOf m = .cpuCopy := by
  revert m
  decide

theorem finish_triggerDma_cpuCopy {u : State} (h : (u.vdp.r 23).getLsbD 7 = false) :
    finish u.triggerDma = exec .dma68k u := by
  have hmode : dmaModeOf u.vdp.dmaMode = .cpuCopy :=
    dmaModeOf_of_not_bit1 _ (by simpa [VdpState.dmaMode] using h)
  unfold State.triggerDma
  rw [hmode]
  rfl

theorem finish_triggerDma_fill {u : State} (h : (u.vdp.r 23).extractLsb' 6 2 = 0b10) :
    finish u.triggerDma = exec .dmaFillArm u := by
  unfold State.triggerDma VdpState.dmaMode
  rw [h]
  rfl

theorem finish_triggerDma_vramCopy {u : State} (h : (u.vdp.r 23).extractLsb' 6 2 = 0b11) :
    finish u.triggerDma = exec .dmaCopy u := by
  unfold State.triggerDma VdpState.dmaMode
  rw [h]
  rfl

/-- Settles O31: no register moves before the trigger, so its guards and mode are those of the old state. -/
theorem secondCommandWord : Obligations.SecondCommandWord := by
  intro s x cd52 y a
  dsimp only
  rw [exec_ctrlCmd2, ← cmdWord2_eq]
  refine ⟨fun hoff => ?off, fun htrigger henable => ?run⟩
  case off =>
    have hguard : (cd52.getLsbD 3 && s.vdp.dmaEnable) = false := Bool.and_eq_false_iff.mpr hoff
    rw [hguard]
    rfl
  case run =>
    have hguard : (cd52.getLsbD 3 && s.vdp.dmaEnable) = true := Bool.and_eq_true_iff.mpr ⟨htrigger, henable⟩
    rw [if_pos hguard]
    exact ⟨fun h => finish_triggerDma_cpuCopy h, fun h => finish_triggerDma_fill h, fun h => finish_triggerDma_vramCopy h⟩

/-! ### Data-port writes -/

theorem dataEnd_of_not_armed {u : VdpState} (h : u.fillPending = false) (w : Word) : u.dataEnd w = u := by
  simp [VdpState.dataEnd, h]

theorem dataEnd_of_armed {u : VdpState} (h : u.fillPending = true) (w : Word) : u.dataEnd w = u.fireFill w := by
  simp [VdpState.dataEnd, h]

/-! R282-R285: what a row does between the common lines. -/

def wordToVram (w : Word) (u : VdpState) : VdpState := ((u.dataBegin w).vramWritePair u.addr w).addrAdvance

def wordToCram (w : Word) (u : VdpState) : VdpState := ((u.dataBegin w).cramStore (entryIndex u.addr) w).addrAdvance

def wordToVsram (w : Word) (u : VdpState) : VdpState := ((u.dataBegin w).vsramStore (entryIndex u.addr) w).addrAdvance

def wordToNothing (w : Word) (u : VdpState) : VdpState := (u.dataBegin w).addrAdvance

theorem exec_dataWriteVram (v : Word) (s : State) :
    exec (.dataWriteVram v) s = finish { s with vdp := (wordToVram v s.vdp).dataEnd v } := rfl

theorem exec_dataWriteCram (v : Word) (s : State) :
    exec (.dataWriteCram v) s = finish { s with vdp := (wordToCram v s.vdp).dataEnd v } := rfl

theorem exec_dataWriteVsram (v : Word) (s : State) :
    exec (.dataWriteVsram v) s = finish { s with vdp := (wordToVsram v s.vdp).dataEnd v } := rfl

theorem exec_dataWriteNotarget (v : Word) (s : State) :
    exec (.dataWriteNotarget v) s = finish { s with vdp := (wordToNothing v s.vdp).dataEnd v } := rfl

theorem exec_dataWriteReadcode (v : Word) (s : State) :
    exec (.dataWriteReadcode v) s = finish { s with vdp := (s.vdp.dataBegin v).dataEnd v } := rfl

/-- R103: the two addresses of a word differ. -/
theorem xor_one_ne (a : Word) : a.toNat ≠ (a ^^^ 1).toNat := by
  rw [Ne, BitVec.toNat_inj]
  intro h
  simpa using congrArg (·.getLsbD 0) h

/-- R103, R104: the cache after a word's two bytes: those in the window follow VRAM, the others stay. -/
theorem satCache_vramWritePair (u : VdpState) (a w : Word) (k : Nat) : (u.vramWritePair a w).satCache.read k =
    if k < u.satSize ∧ (u.satBase.toNat + k = a.toNat ∨ u.satBase.toNat + k = (a ^^^ 1).toNat)
    then (u.vramWritePair a w).vram.read (u.satBase.toNat + k) else u.satCache.read k := by
  have hbase : (u.vramWrite a (hiByte w)).satBase = u.satBase := satBase_of_reg rfl
  have hsize : (u.vramWrite a (hiByte w)).satSize = u.satSize := satSize_of_reg rfl
  rw [read_vramWritePair]
  unfold VdpState.vramWritePair
  rw [satCache_vramWrite, satCache_vramWrite, hbase, hsize]
  by_cases hin : k < u.satSize ∧ (u.satBase.toNat + k = a.toNat ∨ u.satBase.toNat + k = (a ^^^ 1).toNat)
  · obtain ⟨hk, haddr⟩ := hin
    by_cases hlo : u.satBase.toNat + k = (a ^^^ 1).toNat
    · rw [if_pos ⟨hlo, hk⟩, if_pos ⟨hk, haddr⟩, if_pos hlo]
    · have hhi : u.satBase.toNat + k = a.toNat := haddr.resolve_right hlo
      rw [if_neg (by omega), if_pos ⟨hhi, hk⟩, if_pos ⟨hk, haddr⟩, if_neg hlo, if_pos hhi]
  · rw [if_neg (by omega), if_neg (by omega), if_neg hin]

/-- R45: the window's base, in numbers. -/
theorem toNat_satBase (u : VdpState) : u.satBase.toNat =
    if (u.r 12).getLsbD 0 then (u.r 5).toNat / 2 % 64 * 1024 else (u.r 5).toNat % 128 * 512 := by
  have h40 : ∀ b : Byte, ((b.setWidth 16 &&& 0x7E#16) <<< 9).toNat = b.toNat / 2 % 64 * 1024 := by decide
  have h32 : ∀ b : Byte, ((b.setWidth 16 &&& 0x7F#16) <<< 9).toNat = b.toNat % 128 * 512 := by decide
  unfold VdpState.satBase VdpState.h40
  rw [← h40, ← h32]
  split <;> rfl

/-- Settles O32: of the two bytes stored one after the other, neither overwrites the other (`xor_one_ne`). -/
theorem dataWriteVram : Obligations.DataWriteVram := by
  intro s v
  refine ⟨toNat_satBase s.vdp, rfl, fun hfill => ?_⟩
  rw [exec_dataWriteVram, dataEnd_of_not_armed (u := wordToVram v s.vdp) hfill]
  refine ⟨_, rfl, rfl, fun k => ?vram, satCache_vramWritePair (s.vdp.dataBegin v) s.vdp.addr v⟩
  have hne := xor_one_ne s.vdp.addr
  refine (read_vramWritePair (s.vdp.dataBegin v) s.vdp.addr v k).trans ?_
  by_cases hk : k = s.vdp.addr.toNat
  · rw [if_neg (by omega), if_pos hk, if_pos hk]
    rfl
  · rw [if_neg hk, if_neg hk]
    rfl

/-- R106: the entry of an address, in numbers. -/
theorem toNat_entryIndex (a : Word) : (entryIndex a).toNat = a.toNat / 2 % 64 := by
  simp [entryIndex, BitVec.extractLsb'_toNat, Nat.shiftRight_eq_div_pow]

/-- R106: an entry of CRAM or VSRAM after a store at an address. -/
theorem getElem_set_entryIndex (m : Vector Word 64) (a w : Word) (i : Fin 64) :
    (m.set (entryIndex a).toNat w (entryIndex a).isLt)[i] = if i.val = a.toNat / 2 % 64 then w else m[i] := by
  simp only [Fin.getElem_fin, Vector.getElem_set, toNat_entryIndex, eq_comm]

/-- Settles O33: one entry of one memory is set, and with no fill armed the common last lines do nothing. -/
theorem dataWriteCramVsram : Obligations.DataWriteCramVsram := by
  intro s v hfill
  rw [exec_dataWriteCram, dataEnd_of_not_armed (u := wordToCram v s.vdp) hfill,
    exec_dataWriteVsram, dataEnd_of_not_armed (u := wordToVsram v s.vdp) hfill]
  exact ⟨⟨_, rfl, rfl, getElem_set_entryIndex s.vdp.cram s.vdp.addr v⟩,
    ⟨_, rfl, rfl, getElem_set_entryIndex s.vdp.vsram s.vdp.addr v⟩⟩

/-- Settles O34: only the common lines are left, and the address advance under a write code. -/
theorem dataWriteWithoutTarget : Obligations.DataWriteWithoutTarget := by
  intro s v hfill
  rw [exec_dataWriteNotarget, dataEnd_of_not_armed (u := wordToNothing v s.vdp) hfill,
    exec_dataWriteReadcode, dataEnd_of_not_armed (u := s.vdp.dataBegin v) hfill]
  exact ⟨rfl, rfl⟩

/-- The state with its fill flag set or cleared; in this form a row's work commutes with it (`exec_firesFill`). -/
def withFill (u : VdpState) (b : Bool) : VdpState := { u with fillPending := b }

/-- R280: a row that ends with the common last lines, and whose own work neither sees nor changes the fill flag, fires an
armed fill after that work. -/
theorem exec_firesFill {i : Instr} {v : Word} (work : VdpState → VdpState)
    (hexec : ∀ s, exec i s = finish { s with vdp := (work s.vdp).dataEnd v })
    (hwork : ∀ u b, work (withFill u b) = withFill (work u) b) {s : State} (hfill : s.vdp.fillPending = true) :
    ∃ u, exec i { s with vdp := { s.vdp with fillPending := false } } = .next u ∧
      exec i s = exec (.dmaFillFire v) { u with vdp := { u.vdp with fillPending := true } } := by
  have harmed : work s.vdp = withFill (work s.vdp) true := by
    rw [← hwork, ← hfill]
    rfl
  have hidle : work { s.vdp with fillPending := false } = withFill (work s.vdp) false := hwork s.vdp false
  rw [hexec, hexec, hidle, dataEnd_of_not_armed rfl, harmed, dataEnd_of_armed rfl]
  exact ⟨_, rfl, rfl⟩

/-- Settles O35: what each row does between the common lines. -/
theorem dataWriteFiresFill : Obligations.DataWriteFiresFill := by
  intro s v hfill
  simp only [List.forall_mem_cons]
  refine ⟨?vram, ?cram, ?vsram, ?notarget, ?readcode, List.forall_mem_nil _⟩
  case vram => exact exec_firesFill (wordToVram v) (exec_dataWriteVram v) (fun _ _ => rfl) hfill
  case cram => exact exec_firesFill (wordToCram v) (exec_dataWriteCram v) (fun _ _ => rfl) hfill
  case vsram => exact exec_firesFill (wordToVsram v) (exec_dataWriteVsram v) (fun _ _ => rfl) hfill
  case notarget => exact exec_firesFill (wordToNothing v) (exec_dataWriteNotarget v) (fun _ _ => rfl) hfill
  case readcode => exact exec_firesFill (·.dataBegin v) (exec_dataWriteReadcode v) (fun _ _ => rfl) hfill

/-! ### Data-port reads -/

/-- A CRAM or VSRAM entry, by its index in numbers. -/
theorem getElem_entryIndex (m : Vector Word 64) (a : Word) :
    m[(entryIndex a).toNat]'(entryIndex a).isLt = m[a.toNat / 2 % 64]'(Nat.mod_lt _ (by decide)) := by
  simp only [toNat_entryIndex]

theorem readVsram_eq (u : VdpState) (mask : Word) : u.readVsram mask =
    (u.vsram[u.addr.toNat / 2 % 64]'(Nat.mod_lt _ (by decide)) &&& mask) |||
      (u.fifo[3] &&& (0xFFFF#16 &&& ~~~mask)) := by
  have hones : 0xFFFF#16 &&& ~~~mask = ~~~mask := BitVec.allOnes_and
  rw [hones, ← getElem_entryIndex]
  rfl

theorem readCram_eq (u : VdpState) : u.readCram =
    (u.cram[u.addr.toNat / 2 % 64]'(Nat.mod_lt _ (by decide)) &&& 0x0EEE#16) ||| (u.fifo[3] &&& 0xF111#16) := by
  rw [← getElem_entryIndex]
  rfl

theorem readVram8_eq (u : VdpState) : u.readVram8 =
    (u.vram.read (u.addr ^^^ 1).toNat).setWidth 16 ||| (u.fifo[3] &&& 0xFF00#16) := by
  rw [BitVec.or_comm]
  exact extract_append_eq_or (m := 8) u.fifo[3] (u.vram.read (u.addr ^^^ 1).toNat)

/-- Settles O36: R291-R294's values as the spec writes them; the rest is each row's own text. -/
theorem dataReads : Obligations.DataReads := by
  intro s i u
  have hvsram : exec .dataReadVsram s = answer u (.word (s.vdp.readVsram s.cfg.vsramMask)) := rfl
  have hcram : exec .dataReadCram s = answer u (.word s.vdp.readCram) := rfl
  have hvram8 : exec .dataReadVram8 s = answer u (.word s.vdp.readVram8) := rfl
  rw [hvsram, hcram, hvram8, readVsram_eq, readCram_eq, readVram8_eq]
  exact ⟨rfl, rfl, rfl, rfl, rfl⟩

/-! ### Counter, PSG and unused offsets -/

theorem hvRead_latched {s : State} (h : s.vdp.hvLatched = true) : s.hvRead = (s.vdp.hvLatchValue, s) := if_pos h

theorem hvRead_live {s : State} (h : s.vdp.hvLatched = false) : s.hvRead = s.hvLive := by simp [State.hvRead, h]

/-- Settles O38: only the counter's read has two cases, by its latch bit. -/
theorem counterPsgUnused : Obligations.CounterPsgUnused := by
  intro s off w
  have hread : exec (.hvRead off) s = answer s.hvRead.2 (.word s.hvRead.1) := rfl
  rw [hread]
  refine ⟨fun hlatched => ?latched, fun hlive => ?live, rfl, rfl, rfl, rfl, rfl⟩
  case latched =>
    rw [hvRead_latched hlatched]
    rfl
  case live =>
    rw [hvRead_live hlive]
    rfl

/-! ### Byte and long accesses of the ports -/

theorem exec_decodePort_read (off : BitVec 5) (s : State) :
    exec (decodePort off .read) s = answer (s.vdpRead16 off).2 (.word (s.vdpRead16 off).1) := exec_decodePort off .read s

theorem exec_decodePort_write (off : BitVec 5) (v : Word) (s : State) :
    exec (decodePort off (.write v)) s = finish (s.vdpWrite16 off v) := exec_decodePort off (.write v) s

/-- Settles O39: each byte access is its word access, whose reply the byte's stands in place of. -/
theorem bytePortAccess : Obligations.BytePortAccess := by
  intro s off b a acc
  refine ⟨?write, ?read, ?region⟩
  case write =>
    rw [exec_decodePort_write]
    rfl
  case read => exact ⟨_, _, exec_decodePort_read _ s, rfl, rfl⟩
  case region => cases acc <;> rfl

/-- Settles O40: a long access differs from its two word accesses in the reply between them, which the second does not see. -/
theorem longPortAccess : Obligations.LongPortAccess := by
  intro s off v
  constructor
  · rw [execAll_cons (exec_decodePort_write _ _ s), execAll_cons (exec_decodePort_write _ _ _), vdpWrite16_replied]
    rfl
  · have hlo := exec_decodePort_read ((off &&& 0x1E) + 2)
      ((s.vdpRead16 (off &&& 0x1E)).2.replied (.word (s.vdpRead16 (off &&& 0x1E)).1))
    rw [vdpRead16_replied] at hlo
    exact ⟨_, _, _, _, exec_decodePort_read _ s, rfl, hlo, rfl, rfl⟩

end Sys2Proof.Proofs
end

section
/-! PROOFS. The statements of 42_dma.md on the runs: arming a fill (O42), the fill, the VRAM copy and the CPU copy, cell by cell
(O43-O45), and what every run leaves (O46). -/

namespace Sys2Proof.Proofs

open Sys2Proof.Machine Sys2Proof.Laws

/-- Settles O42: arming writes one flag, and with DMA disabled nothing runs. -/
theorem fillArmAndDisabled : Obligations.FillArmAndDisabled := fun _ => ⟨rfl, rfl⟩

/-! ### A cell during a run of writes -/

/-- The contents of a memory cell during a run: step `k` puts `val k` there if it hits the cell, and else leaves it. -/
def Follows {α : Type} (cell : Nat → α) (hit : Nat → Prop) (val : Nat → α) : Prop :=
  ∀ k, (hit k → cell (k + 1) = val k) ∧ (¬hit k → cell (k + 1) = cell k)

section Follows

variable {α : Type} {cell : Nat → α} {hit : Nat → Prop} {val : Nat → α} {n : Nat}

theorem follows_of_ite [DecidablePred hit] (h : ∀ k, cell (k + 1) = if hit k then val k else cell k) :
    Follows cell hit val :=
  fun k => ⟨fun hk => by rw [h, if_pos hk], fun hk => by rw [h, if_neg hk]⟩

theorem Follows.of_not_hit (h : Follows cell hit val) (hn : ∀ k, k < n → ¬hit k) : cell n = cell 0 := by
  induction n with
  | zero => rfl
  | succ n ih => rw [(h n).2 (hn n (Nat.lt_succ_self n)), ih fun k hk => hn k (Nat.lt_succ_of_lt hk)]

theorem Follows.of_last_hit (h : Follows cell hit val) {k : Nat} (hk : k < n) (hhit : hit k)
    (hlater : ∀ j, k < j → j < n → ¬hit j) : cell n = val k := by
  induction n with
  | zero => exact absurd hk (Nat.not_lt_zero k)
  | succ n ih =>
    by_cases hkn : k = n
    · rw [← hkn, (h k).1 hhit]
    · have hlt : k < n := by omega
      rw [(h n).2 (hlater n hlt (Nat.lt_succ_self n)), ih hlt fun j hj hjn => hlater j hj (Nat.lt_succ_of_lt hjn)]

theorem exists_last_hit (h : ∃ k, k < n ∧ hit k) : ∃ k, k < n ∧ hit k ∧ ∀ j, k < j → j < n → ¬hit j := by
  induction n with
  | zero => exact absurd h fun ⟨k, hk, _⟩ => Nat.not_lt_zero k hk
  | succ n ih =>
    by_cases hn : hit n
    · exact ⟨n, Nat.lt_succ_self n, hn, fun j hj hjn => by omega⟩
    · obtain ⟨k, hk, hhit⟩ := h
      have hkn : k ≠ n := fun he => hn (he ▸ hhit)
      obtain ⟨m, hm, hmhit, hlater⟩ := ih ⟨k, by omega, hhit⟩
      refine ⟨m, Nat.lt_succ_of_lt hm, hmhit, fun j hj hjn => ?_⟩
      by_cases hjn' : j = n
      · exact hjn' ▸ hn
      · exact hlater j hj (by omega)

/-- Cells hit alike hold alike once they are hit. -/
theorem Follows.agree {cell' : Nat → α} {hit' : Nat → Prop} (h : Follows cell hit val) (h' : Follows cell' hit' val)
    (hsame : ∀ k, hit k ↔ hit' k) (hhit : ∃ k, k < n ∧ hit' k) : cell n = cell' n := by
  obtain rfl : hit = hit' := funext fun k => propext (hsame k)
  obtain ⟨k, hk, hkhit, hlater⟩ := exists_last_hit hhit
  rw [h.of_last_hit hk hkhit hlater, h'.of_last_hit hk hkhit hlater]

/-- Where every step that hits puts the same, it does not matter which was the last. -/
theorem Follows.of_hit {b : α} (h : Follows cell hit fun _ => b) (hhit : ∃ k, k < n ∧ hit k) : cell n = b := by
  obtain ⟨k, hk, hkhit, hlater⟩ := exists_last_hit hhit
  exact h.of_last_hit hk hkhit hlater

end Follows

/-! ### The target of a write, by the code -/

theorem writeRow_vram_iff : ∀ code : BitVec 6, writeRow code = .vram ↔ code &&& 0x0F = 0x01 := by decide

theorem writeRow_cram_iff : ∀ code : BitVec 6, writeRow code = .cram ↔ code &&& 0x0F = 0x03 := by decide

theorem writeRow_vsram_iff : ∀ code : BitVec 6, writeRow code = .vsram ↔ code &&& 0x0F = 0x05 := by decide

/-! ### What stands when a run is over -/

theorem toNat_append_eq_add {m n : Nat} (x : BitVec m) (y : BitVec n) : (x ++ y).toNat = x.toNat * 2 ^ n + y.toNat := by
  rw [BitVec.toNat_append, ← Nat.shiftLeft_add_eq_or_of_lt y.isLt, Nat.shiftLeft_eq]

/-- R321: the length, in numbers. -/
theorem dmaLength_eq (v : VdpState) : v.dmaLength =
    if (v.r 19).toNat + 256 * (v.r 20).toNat = 0 then 65536 else (v.r 19).toNat + 256 * (v.r 20).toNat := by
  have hlen : v.lenReg.toNat = (v.r 19).toNat + 256 * (v.r 20).toNat := by
    unfold VdpState.lenReg mkWord
    rw [toNat_append_eq_add]
    omega
  unfold VdpState.dmaLength
  rw [← hlen]
  simp only [← BitVec.toNat_inj]
  rfl

theorem dmaLength_le (v : VdpState) : v.dmaLength ≤ 65536 := by
  have h19 := (v.r 19).isLt
  have h20 := (v.r 20).isLt
  rw [dmaLength_eq]
  split <;> omega

/-- R286: the address after `k` advances. -/
def addrAfter (v : VdpState) (k : Nat) : Word := v.addr + BitVec.ofNat 16 k * v.inc

theorem toNat_inc (v : VdpState) : v.inc.toNat = (v.r 15).toNat := by
  have := (v.r 15).isLt
  unfold VdpState.inc
  rw [BitVec.toNat_setWidth]
  omega

theorem addrAfter_succ (v : VdpState) (k : Nat) : addrAfter v (k + 1) = addrAfter v k + v.inc := by
  unfold addrAfter
  rw [BitVec.ofNat_add, add_mul, ← add_assoc]
  exact congrArg _ (one_mul _)

/-- The address after `k` advances, in numbers up to the sum. -/
theorem addrAfter_eq (v : VdpState) (k : Nat) : addrAfter v k = v.addr + BitVec.ofNat 16 (k * (v.r 15).toNat) := by
  unfold addrAfter
  rw [← toNat_inc, BitVec.ofNat_mul, BitVec.ofNat_toNat, BitVec.setWidth_eq]

/-- The state with another VDP and another counter of the draws: all that a DMA run changes. -/
def withRun (s : State) (v : VdpState) (d : Nat) : State := { s with vdp := v, env := { s.env with draws := d } }

theorem withRun_vdp (s : State) (v : VdpState) (d : Nat) : (withRun s v d).vdp = v := rfl

/-- R331: `t` is `s` after a DMA run, with the fill flag `fill`: the address is at the end, and of the rest only the registers,
the memories, the FIFO, the draws and the reply may differ. -/
def RunFrame (s t : State) (fill : Bool) : Prop :=
  t = { s with
    vdp := { s.vdp with
      reg := t.vdp.reg
      vram := t.vdp.vram
      satCache := t.vdp.satCache
      cram := t.vdp.cram
      vsram := t.vdp.vsram
      fifo := t.vdp.fifo
      addr := addrAfter s.vdp s.vdp.dmaLength
      fillPending := fill }
    env := { s.env with draws := t.env.draws, reply := .done } }

theorem runFrame_withRun {s : State} {v : VdpState} {fill : Bool} (hcode : v.code = s.vdp.code)
    (hpending : v.pending = s.vdp.pending) (hcounter : v.hvLatchValue = s.vdp.hvLatchValue)
    (haddr : v.addr = addrAfter s.vdp s.vdp.dmaLength) (hfill : v.fillPending = fill) (d : Nat) :
    RunFrame s ((withRun s v d).replied .done) fill := by
  unfold RunFrame
  dsimp only
  rw [← hcode, ← hpending, ← hcounter, ← haddr, ← hfill]
  rfl

/-! ### The fill -/

/-! One iteration, cell by cell. -/

theorem read_fillStep (w : Word) (v : VdpState) (x : Nat) : (v.fillStep w).vram.read x =
    if writeRow v.code = .vram ∧ x = (v.addr ^^^ 1).toNat then hiByte w else v.vram.read x := by
  unfold VdpState.fillStep
  cases writeRow v.code
  case vram => simp only [true_and]; exact read_vramWrite v _ _ x
  all_goals rfl

theorem satCache_fillStep (w : Word) (v : VdpState) (x : Nat) : (v.fillStep w).satCache.read x =
    if writeRow v.code = .vram ∧ x < v.satSize ∧ v.satBase.toNat + x = (v.addr ^^^ 1).toNat then hiByte w
    else v.satCache.read x := by
  unfold VdpState.fillStep
  cases writeRow v.code
  case vram => simp only [true_and, and_comm (a := x < v.satSize)]; exact satCache_vramWrite v _ _ x
  all_goals rfl

theorem cram_fillStep (w : Word) (v : VdpState) (e : Fin 64) : (v.fillStep w).cram[e] =
    if writeRow v.code = .cram ∧ e.val = v.addr.toNat / 2 % 64 then w else v.cram[e] := by
  unfold VdpState.fillStep
  cases writeRow v.code
  case cram => simp only [true_and]; exact getElem_set_entryIndex v.cram v.addr w e
  all_goals rfl

theorem vsram_fillStep (w : Word) (v : VdpState) (e : Fin 64) : (v.fillStep w).vsram[e] =
    if writeRow v.code = .vsram ∧ e.val = v.addr.toNat / 2 % 64 then w else v.vsram[e] := by
  unfold VdpState.fillStep
  cases writeRow v.code
  case vsram => simp only [true_and]; exact getElem_set_entryIndex v.vsram v.addr w e
  all_goals rfl

section FiredFill

variable (v : VdpState) (w : Word) (j : Nat)

/-- The VDP after `j` iterations of a fired fill; they run with the fill flag clear (log 19). -/
def firedRun : VdpState := (VdpState.fillStep w)^[j] (withFill v false)

theorem firedRun_succ : firedRun v w (j + 1) = (firedRun v w j).fillStep w := Function.iterate_succ_apply' _ _ _

theorem firedRun_addr : (firedRun v w j).addr = addrAfter v j :=
  iterate_addr _ id (fillStep_addr w) (kept_fillStep w) j (withFill v false)

theorem firedRun_code : (firedRun v w j).code = v.code := (kept_fillRun w j (withFill v false)).code

theorem firedRun_reg : (firedRun v w j).reg = v.reg := (kept_fillRun w j (withFill v false)).reg

/-! Its iterations, cell by cell: each hit puts the same value. -/

theorem follows_fired_vram (x : Nat) : Follows (fun j => (firedRun v w j).vram.read x)
    (fun j => writeRow v.code = .vram ∧ x = (addrAfter v j ^^^ 1).toNat) (fun _ => hiByte w) :=
  follows_of_ite fun j => by
    rw [firedRun_succ, read_fillStep, firedRun_code, firedRun_addr]

theorem follows_fired_satCache (x : Nat) : Follows (fun j => (firedRun v w j).satCache.read x)
    (fun j => writeRow v.code = .vram ∧ x < v.satSize ∧ v.satBase.toNat + x = (addrAfter v j ^^^ 1).toNat)
    (fun _ => hiByte w) :=
  follows_of_ite fun j => by
    have hreg := firedRun_reg v w j
    rw [firedRun_succ, satCache_fillStep, firedRun_code, satBase_of_reg hreg, satSize_of_reg hreg, firedRun_addr]

theorem follows_fired_cram (e : Fin 64) : Follows (fun j => (firedRun v w j).cram[e])
    (fun j => writeRow v.code = .cram ∧ e.val = (addrAfter v j).toNat / 2 % 64) (fun _ => w) :=
  follows_of_ite fun j => by
    rw [firedRun_succ, cram_fillStep, firedRun_code, firedRun_addr]

theorem follows_fired_vsram (e : Fin 64) : Follows (fun j => (firedRun v w j).vsram[e])
    (fun j => writeRow v.code = .vsram ∧ e.val = (addrAfter v j).toNat / 2 % 64) (fun _ => w) :=
  follows_of_ite fun j => by
    rw [firedRun_succ, vsram_fillStep, firedRun_code, firedRun_addr]

/-! The fired fill as a whole. -/

theorem fireFill_eq : v.fireFill w = (firedRun v w v.dmaLength).clearLength := rfl

theorem fireFill_vram : (v.fireFill w).vram = (firedRun v w v.dmaLength).vram := clearLength_vram _

theorem fireFill_satCache : (v.fireFill w).satCache = (firedRun v w v.dmaLength).satCache := clearLength_satCache _

theorem fireFill_cram (e : Fin 64) : (v.fireFill w).cram[e] = (firedRun v w v.dmaLength).cram[e] := rfl

theorem fireFill_vsram (e : Fin 64) : (v.fireFill w).vsram[e] = (firedRun v w v.dmaLength).vsram[e] := rfl

theorem fireFill_r (i : Fin 32) : (v.fireFill w).r i = if i = 19 ∨ i = 20 then 0 else v.r i := by
  rw [fireFill_eq, clearLength_r, r_of_reg (firedRun_reg v w v.dmaLength)]

theorem fireFill_fillPending : (v.fireFill w).fillPending = false := runFill_fillPending _ w

theorem fireFill_fifo : (v.fireFill w).fifo = v.fifo := runFill_fifo _ w

end FiredFill

theorem runFrame_fireFill (s : State) (w : Word) :
    RunFrame s ((withRun s (s.vdp.fireFill w) s.env.draws).replied .done) false := by
  have hkept := kept_fillRun w s.vdp.dmaLength (withFill s.vdp false)
  rw [fireFill_eq]
  exact runFrame_withRun (v := (firedRun s.vdp w s.vdp.dmaLength).clearLength) hkept.code hkept.pending hkept.hvLatchValue
    (firedRun_addr s.vdp w _) hkept.fillPending s.env.draws

/-- Settles O43: the cells of the four memories follow the iterations' addresses, and every hit puts the same value. -/
theorem fillFire : Obligations.FillFire := by
  intro s v len n at_
  have hn : s.vdp.dmaLength = n := dmaLength_eq s.vdp
  have hat : addrAfter s.vdp = at_ := rfl
  refine ⟨(withRun s (s.vdp.fireFill v) s.env.draws).replied .done, rfl, ?frame, fireFill_r s.vdp v, ?_⟩
  case frame =>
    have hframe := runFrame_fireFill s v
    unfold RunFrame at hframe
    rwa [replied_vdp, withRun_vdp, fireFill_fifo, hn] at hframe
  simp only [replied_vdp, withRun_vdp, fireFill_vram, fireFill_satCache, fireFill_cram, fireFill_vsram,
    ← writeRow_vram_iff, ← writeRow_cram_iff, ← writeRow_vsram_iff, ← hn, ← hat]
  have hvram := follows_fired_vram s.vdp v
  have hcache := follows_fired_satCache s.vdp v
  have hcram := follows_fired_cram s.vdp v
  have hvsram := follows_fired_vsram s.vdp v
  refine ⟨?vram, ?vramKept, ?cache, ?cacheKept, ?cram, ?cramKept, ?vsram, ?vsramKept⟩
  case vram => exact fun k ⟨hcode, j, hj, hk⟩ => (hvram k).of_hit ⟨j, hj, hcode, hk⟩
  case vramKept => exact fun k hk => (hvram k).of_not_hit fun j hj ⟨hcode, hx⟩ => hk ⟨hcode, j, hj, hx⟩
  case cache => exact fun k ⟨hcode, hsize, j, hj, hk⟩ => (hcache k).of_hit ⟨j, hj, hcode, hsize, hk⟩
  case cacheKept =>
    exact fun k hk => (hcache k).of_not_hit fun j hj ⟨hcode, hsize, hx⟩ => hk ⟨hcode, hsize, j, hj, hx⟩
  case cram => exact fun e ⟨hcode, j, hj, hk⟩ => (hcram e).of_hit ⟨j, hj, hcode, hk⟩
  case cramKept => exact fun e he => (hcram e).of_not_hit fun j hj ⟨hcode, hx⟩ => he ⟨hcode, j, hj, hx⟩
  case vsram => exact fun e ⟨hcode, j, hj, hk⟩ => (hvsram e).of_hit ⟨j, hj, hcode, hk⟩
  case vsramKept => exact fun e he => (hvsram e).of_not_hit fun j hj ⟨hcode, hx⟩ => he ⟨hcode, j, hj, hx⟩

/-! ### The VRAM copy -/

/-- R327: where byte `k` of a copy comes from; it goes to `addrAfter v k`. -/
def copySourceAfter (v : VdpState) (k : Nat) : Word := v.copySource + BitVec.ofNat 16 k * v.inc

/-- The VDP after `k` bytes of a copy. -/
def copyRun (v : VdpState) (k : Nat) : VdpState := (copyByte^[k] (v, v.copySource)).1

/-- R327: byte `k` of a copy, as the bytes before it have left its source. -/
def copiedByte (v : VdpState) (k : Nat) : Byte := (copyRun v k).vram.read (copySourceAfter v k).toNat

theorem copyRun_succ (v : VdpState) (k : Nat) :
    copyRun v (k + 1) = ((copyRun v k).vramWrite (addrAfter v k) (copiedByte v k)).addrAdvance := by
  have haddr : (copyRun v k).addr = addrAfter v k :=
    iterate_addr copyByte Prod.fst copyByte_addr kept_copyByte k (v, v.copySource)
  have hsource : (copyByte^[k] (v, v.copySource)).2 = copySourceAfter v k := copyRun_source k (v, v.copySource)
  unfold copiedByte
  rw [← haddr, ← hsource]
  unfold copyRun
  rw [Function.iterate_succ_apply']
  rfl

theorem follows_copy_vram (v : VdpState) (x : Nat) :
    Follows (fun k => (copyRun v k).vram.read x) (fun k => x = (addrAfter v k).toNat) (copiedByte v) :=
  follows_of_ite fun k => by
    rw [copyRun_succ, addrAdvance_vram, read_vramWrite]

theorem follows_copy_satCache (v : VdpState) (x : Nat) :
    Follows (fun k => (copyRun v k).satCache.read x)
      (fun k => v.satBase.toNat + x = (addrAfter v k).toNat ∧ x < v.satSize) (copiedByte v) :=
  follows_of_ite fun k => by
    have hreg : (copyRun v k).reg = v.reg := (kept_copyRun k (v, v.copySource)).reg
    rw [copyRun_succ, addrAdvance_satCache, satCache_vramWrite, satBase_of_reg hreg, satSize_of_reg hreg]

theorem dmaCopy_vram (v : VdpState) : v.dmaCopy.vram = (copyRun v v.dmaLength).vram := rfl

theorem dmaCopy_satCache (v : VdpState) : v.dmaCopy.satCache = (copyRun v v.dmaLength).satCache := rfl

/-! Where a byte's source stands in the copy decides what it is. -/

theorem copiedByte_of_not_written (v : VdpState) {k : Nat} (h : ∀ j, j < k → addrAfter v j ≠ copySourceAfter v k) :
    copiedByte v k = v.vram.read (copySourceAfter v k).toNat :=
  (follows_copy_vram v _).of_not_hit fun j hj hsource => h j hj (BitVec.eq_of_toNat_eq hsource).symm

theorem copiedByte_of_last_written (v : VdpState) {j k : Nat} (hj : j < k) (hsource : addrAfter v j = copySourceAfter v k)
    (hlater : ∀ i, j < i → i < k → addrAfter v i ≠ copySourceAfter v k) : copiedByte v k = copiedByte v j :=
  (follows_copy_vram v _).of_last_hit hj (congrArg BitVec.toNat hsource.symm)
    fun i hi hik hwritten => hlater i hi hik (BitVec.eq_of_toNat_eq hwritten).symm

/-! Increment 1: fewer than 65536 consecutive addresses are all different. -/

theorem add_ofNat_inj {a : Word} {i j : Nat} (hi : i < 65536) (hj : j < 65536)
    (h : a + BitVec.ofNat 16 i = a + BitVec.ofNat 16 j) : i = j := by
  have := congrArg BitVec.toNat (add_left_cancel h)
  rwa [BitVec.toNat_ofNat, BitVec.toNat_ofNat, Nat.mod_eq_of_lt hi, Nat.mod_eq_of_lt hj] at this

theorem inc_of_one {v : VdpState} (h : v.r 15 = 1) : v.inc = 1 := by
  unfold VdpState.inc
  rw [h]
  rfl

theorem addrAfter_of_one {v : VdpState} (h : v.r 15 = 1) (k : Nat) : addrAfter v k = v.addr + BitVec.ofNat 16 k := by
  unfold addrAfter
  rw [inc_of_one h, mul_one]

theorem copySourceAfter_of_one {v : VdpState} (h : v.r 15 = 1) (k : Nat) :
    copySourceAfter v k = v.copySource + BitVec.ofNat 16 k := by
  unfold copySourceAfter
  rw [inc_of_one h, mul_one]

/-- A destination `d` bytes ahead of the source: byte `k` is read where byte `k - d` was put, so the first `d` bytes repeat. -/
theorem copiedByte_repeats {v : VdpState} {d n : Nat} (hinc : v.r 15 = 1) (hd : 0 < d)
    (haddr : v.addr = copySourceAfter v d) (hn : n + d ≤ 65536) (k : Nat) (hk : k < n) :
    copiedByte v k = v.vram.read (copySourceAfter v (k % d)).toNat := by
  have hahead (i : Nat) : addrAfter v i = copySourceAfter v (i + d) := by
    rw [addrAfter_of_one hinc, haddr, copySourceAfter_of_one hinc, copySourceAfter_of_one hinc, BitVec.add_assoc,
      BitVec.ofNat_add, BitVec.add_comm (BitVec.ofNat 16 d)]
  have hne {i k : Nat} (hi : i < n) (hk : k < n) (hid : i + d ≠ k) : addrAfter v i ≠ copySourceAfter v k := by
    rw [hahead, copySourceAfter_of_one hinc, copySourceAfter_of_one hinc]
    exact fun h => hid (add_ofNat_inj (by omega) (by omega) h)
  induction k using Nat.strong_induction_on with
  | _ k ih =>
    by_cases hkd : k < d
    · rw [Nat.mod_eq_of_lt hkd]
      exact copiedByte_of_not_written v fun j hj => hne (by omega) hk (by omega)
    · have hback : k - d + d = k := Nat.sub_add_cancel (by omega)
      have hsource : addrAfter v (k - d) = copySourceAfter v k := by rw [hahead, hback]
      rw [copiedByte_of_last_written v (by omega) hsource fun i hi hik => hne (by omega) hk (by omega),
        Nat.mod_eq_sub_mod (by omega)]
      exact ih (k - d) (by omega) (by omega)

theorem runFrame_dmaCopy (s : State) :
    RunFrame s ((withRun s s.vdp.dmaCopy s.env.draws).replied .done) s.vdp.fillPending :=
  runFrame_withRun (dmaCopy_code _) (dmaCopy_pending _) (dmaCopy_hvLatchValue _) (dmaCopy_addr _) (dmaCopy_fillPending _)
    s.env.draws

/-- Settles O44: each cell follows the bytes that go to it (`follows_copy_vram`). -/
theorem copyRoundTrip : Obligations.CopyRoundTrip := by
  intro s n inc src dst
  have hvram := follows_copy_vram s.vdp
  have hcache := follows_copy_satCache s.vdp
  have hsrc : copySourceAfter s.vdp = src := rfl
  have hdst : addrAfter s.vdp = dst := rfl
  have hmoved : ∀ k, k < n → (∀ i, k < i → i < n → addrAfter s.vdp i ≠ addrAfter s.vdp k) →
      (copyRun s.vdp n).vram.read (addrAfter s.vdp k).toNat = copiedByte s.vdp k := fun k hk hlater =>
    (hvram _).of_last_hit hk rfl fun i hi hin hwritten => hlater i hi hin (BitVec.eq_of_toNat_eq hwritten).symm
  have hdistinct (hone : s.vdp.r 15 = 1) (k : Nat) (hk : k < n) (i : Nat) (hki : k < i) (hi : i < n) :
      addrAfter s.vdp i ≠ addrAfter s.vdp k := by
    have hlen : n ≤ 65536 := dmaLength_le s.vdp
    rw [addrAfter_of_one hone, addrAfter_of_one hone]
    exact fun h => absurd (add_ofNat_inj (by omega) (by omega) h) (by omega)
  refine ⟨(withRun s s.vdp.dmaCopy s.env.draws).replied .done, copiedByte s.vdp, rfl, ?frame, dmaCopy_r s.vdp, ?_⟩
  case frame =>
    have hframe := runFrame_dmaCopy s
    unfold RunFrame at hframe
    rwa [replied_vdp, withRun_vdp, dmaCopy_fifo, dmaCopy_cram, dmaCopy_vsram] at hframe
  simp only [replied_vdp, withRun_vdp, dmaCopy_vram, dmaCopy_satCache, ← hsrc, ← hdst]
  refine ⟨?fresh, ?written, hmoved, ?vramKept, ?cache, ?cacheKept, ?roundTrip, ?overlap⟩
  case fresh => exact fun k _ h => copiedByte_of_not_written s.vdp h
  case written => exact fun j k hj _ hsource hlater => copiedByte_of_last_written s.vdp hj hsource hlater
  case vramKept => exact fun x hx => (hvram x).of_not_hit hx
  case cache => exact fun x hsize hhit => (hcache x).agree (hvram _) (fun _ => and_iff_left hsize) hhit
  case cacheKept => exact fun x hx => (hcache x).of_not_hit fun k hk ⟨hdst, hsize⟩ => hx ⟨hsize, k, hk, hdst⟩
  case roundTrip =>
    exact fun hone hfresh k hk => (hmoved k hk (hdistinct hone k hk)).trans
      (copiedByte_of_not_written s.vdp fun j hj => (hfresh j k hj hk).symm)
  case overlap =>
    exact fun d hone hd haddr hn k hk => (hmoved k hk (hdistinct hone k hk)).trans
      (copiedByte_repeats hone hd haddr hn k hk)

/-! ### The source of a CPU copy -/

/-- R323: the address `i` bytes on from `start`, within `start`'s 128 KiB block. -/
def blockAddr (start i : Nat) : Addr := BitVec.ofNat 24 (start / 0x20000 * 0x20000 + (start + i) % 0x20000)

theorem toNat_blockAddr {start : Nat} (h : start < 0x1000000) (i : Nat) :
    (blockAddr start i).toNat = start / 0x20000 * 0x20000 + (start + i) % 0x20000 := by
  unfold blockAddr
  rw [BitVec.toNat_ofNat]
  omega

theorem toNat_nextSource (a : Addr) (inc : Word) :
    (nextSource a inc).toNat = a.toNat / 0x20000 * 0x20000 + (a.toNat + inc.toNat) % 0x20000 := by
  have hblock : (a &&& 0xFE0000).toNat = a.toNat / 0x20000 * 0x20000 := by
    have h : (a &&& 0xFE0000 == a &&& 0xFE0000) = true := beq_self_eq_true _
    rw [masked_eq 17 a 0xFE0000 (a &&& 0xFE0000) (by decide), decide_eq_true_iff] at h
    exact h.symm
  have hlow : (a + inc.setWidth 24 &&& 0x01FFFF).toNat = (a.toNat + inc.toNat) % 0x20000 := by
    have := inc.isLt
    rw [toNat_and_lowBits 17 _ _ rfl, BitVec.toNat_add, BitVec.toNat_setWidth]
    omega
  unfold nextSource
  rw [BitVec.toNat_or, hblock, hlow, ← Nat.shiftLeft_eq _ 17, ← Nat.shiftLeft_add_eq_or_of_lt (Nat.mod_lt _ (by decide))]

theorem nextSource_blockAddr {start : Nat} (h : start < 0x1000000) (i : Nat) (inc : Word) :
    nextSource (blockAddr start i) inc = blockAddr start (i + inc.toNat) := by
  apply BitVec.eq_of_toNat_eq
  rw [toNat_nextSource, toNat_blockAddr h, toNat_blockAddr h]
  omega

/-- R154: the source registers' byte address, in numbers. -/
def copyStart (v : VdpState) : Nat := 131072 * ((v.r 23).toNat % 128) + 512 * (v.r 22).toNat + 2 * (v.r 21).toNat

theorem copyStart_lt (v : VdpState) : copyStart v < 0x1000000 := by
  have h22 := (v.r 22).isLt
  have h21 := (v.r 21).isLt
  unfold copyStart
  omega

theorem toNat_cpuSource (v : VdpState) : v.cpuSource.toNat = copyStart v := by
  unfold VdpState.cpuSource copyStart
  rw [toNat_append_eq_add, toNat_append_eq_add, toNat_append_eq_add, BitVec.extractLsb'_toNat, Nat.shiftRight_zero,
    BitVec.toNat_zero]
  omega

theorem cpuSource_eq (v : VdpState) : v.cpuSource = blockAddr (copyStart v) 0 := by
  apply BitVec.eq_of_toNat_eq
  rw [toNat_cpuSource, toNat_blockAddr (copyStart_lt v)]
  omega

/-! ### What a CPU copy reads -/

/-! R200: the regions that matter here, by the address in numbers. -/

theorem classify_rom_iff {n : Nat} (hn : n < 0x1000000) :
    classify n = .rom ∨ classify n = .romMirror ↔ n < 0xA00000 := by
  unfold classify
  dsimp only
  rw [Nat.mod_eq_of_lt hn]
  repeat'
    refine iteInduction (motive := fun r => r = Region.rom ∨ r = .romMirror ↔ n < 0xA00000) (fun _ => ?_) (fun _ => ?_)
  all_goals
    simp only [reduceCtorEq, or_false, false_or, true_iff, false_iff]
    omega

theorem classify_ram_iff {n : Nat} (hn : n < 0x1000000) : classify n = .ram ↔ 0xE00000 ≤ n := by
  unfold classify
  dsimp only
  rw [Nat.mod_eq_of_lt hn]
  repeat' refine iteInduction (motive := fun r => r = Region.ram ↔ 0xE00000 ≤ n) (fun _ => ?_) (fun _ => ?_)
  all_goals
    simp only [reduceCtorEq, true_iff, false_iff]
    omega

theorem classify_vdp_iff {n : Nat} (hn : n < 0x1000000) : classify n = .vdp ↔ 0xC00000 ≤ n ∧ n < 0xE00000 := by
  unfold classify
  dsimp only
  rw [Nat.mod_eq_of_lt hn]
  repeat'
    refine iteInduction (motive := fun r => r = Region.vdp ↔ 0xC00000 ≤ n ∧ n < 0xE00000) (fun _ => ?_) (fun _ => ?_)
  all_goals
    simp only [reduceCtorEq, true_iff, false_iff]
    omega

/-- R222: the word at an even address comes from the cartridge. -/
def readsRom (e : Addr) : Bool := (addrRow e).region == .rom || (addrRow e).region == .romMirror

/-- R222: the word at an even address comes from work RAM. -/
def readsRam (e : Addr) : Bool := (addrRow e).region == .ram

theorem readsRom_iff (e : Addr) : readsRom e = true ↔ e.toNat < 0xA00000 := by
  rw [← classify_rom_iff e.isLt, classify_eq_region]
  simp [readsRom]

theorem readsRam_iff (e : Addr) : readsRam e = true ↔ 0xE00000 ≤ e.toNat := by
  rw [← classify_ram_iff e.isLt, classify_eq_region]
  simp [readsRam]

/-- R222: the word at the even address `e`; `d` is the counter of the draws. -/
def sourceWord (b : BusState) (e : Addr) (d : Nat) : Word :=
  if readsRom e then b.romByte e ++ b.romByte (e + 1)
  else if readsRam e then b.wram.read (e.toNat % 0x10000) ++ b.wram.read (e.toNat % 0x10000 + 1)
  else Config.freeBits 16 d

/-- R222: a source read, by where the word comes from. -/
theorem dmaSourceRead16_eq (s : State) (a : Addr) : s.dmaSourceRead16 a =
    (sourceWord s.bus (evenAddr a) s.env.draws,
      if readsRom (evenAddr a) || readsRam (evenAddr a) then s else (s.draw 16).2) := by
  have h := classify_eq_region (evenAddr a)
  unfold sourceWord readsRom readsRam
  generalize (addrRow (evenAddr a)).region = r at h ⊢
  cases r
  case rom | romMirror => exact dmaSourceRead16_rom s h (by decide)
  case ram =>
    rw [dmaSourceRead16_ram s h rfl, toNat_and_ramMask]
    rfl
  all_goals exact dmaSourceRead16_device s h (by decide) (by decide) (by decide)

/-- R323: the even address of word `k`. -/
def copyEven (v : VdpState) (k : Nat) : Addr := evenAddr (blockAddr (copyStart v) (k * (v.r 15).toNat))

theorem toNat_copyEven (v : VdpState) (k : Nat) : (copyEven v k).toNat =
    (copyStart v / 0x20000 * 0x20000 + (copyStart v + k * (v.r 15).toNat) % 0x20000) / 2 * 2 := by
  unfold copyEven
  rw [toNat_evenAddr, toNat_blockAddr (copyStart_lt v)]

/-- The 128 KiB block of a copy lies in one kind of memory: the boundaries of R148 that matter are multiples of its size. -/
theorem readsRom_copyEven (v : VdpState) (k : Nat) : readsRom (copyEven v k) = readsRom (copyEven v 0) := by
  rw [Bool.eq_iff_iff, readsRom_iff, readsRom_iff, toNat_copyEven, toNat_copyEven]
  omega

theorem readsRam_copyEven (v : VdpState) (k : Nat) : readsRam (copyEven v k) = readsRam (copyEven v 0) := by
  rw [Bool.eq_iff_iff, readsRam_iff, readsRam_iff, toNat_copyEven, toNat_copyEven]
  omega

/-- Word `k` of a copy. -/
def copyWord (s : State) (k : Nat) : Word := sourceWord s.bus (copyEven s.vdp k) (s.env.draws + k)

/-- The counter of the draws after `k` words. -/
def copyDraws (s : State) (k : Nat) : Nat :=
  if readsRom (copyEven s.vdp 0) || readsRam (copyEven s.vdp 0) then s.env.draws else s.env.draws + k

theorem copyDraws_succ (s : State) (k : Nat) : copyDraws s (k + 1) =
    if readsRom (copyEven s.vdp k) || readsRam (copyEven s.vdp k) then copyDraws s k else copyDraws s k + 1 := by
  unfold copyDraws
  rw [readsRom_copyEven s.vdp k, readsRam_copyEven s.vdp k]
  split <;> rfl

/-- Only a device's word sees the draws, and then every word of the copy is one. -/
theorem sourceWord_copyDraws (s : State) (k : Nat) :
    sourceWord s.bus (copyEven s.vdp k) (copyDraws s k) = copyWord s k := by
  unfold copyWord sourceWord copyDraws
  rw [readsRom_copyEven s.vdp k, readsRam_copyEven s.vdp k]
  cases readsRom (copyEven s.vdp 0) <;> cases readsRam (copyEven s.vdp 0) <;> rfl

/-! ### A CPU copy as a sequence of words -/

/-- R322: one word into the VDP. -/
def pushWord (v : VdpState) (w : Word) : VdpState := ((v.fifoPush w).storeWord w).addrAdvance

/-- The VDP after `k` words of a sequence. -/
def pushWords (word : Nat → Word) (v : VdpState) : Nat → VdpState
  | 0 => v
  | k + 1 => pushWord (pushWords word v k) (word k)

theorem pushWords_succ (word : Nat → Word) (v : VdpState) (k : Nat) :
    pushWords word v (k + 1) = pushWord (pushWords word v k) (word k) := rfl

theorem dma68kWord_withRun (s : State) (v : VdpState) (d : Nat) (src : Addr) :
    dma68kWord (withRun s v d, src) =
      (withRun s (pushWord v (sourceWord s.bus (evenAddr src) d))
        (if readsRom (evenAddr src) || readsRam (evenAddr src) then d else d + 1),
      nextSource src v.inc) := by
  have hsource := dma68kWord_source (withRun s v d, src)
  refine Prod.ext ?_ hsource
  unfold dma68kWord
  dsimp only
  rw [dmaSourceRead16_eq]
  cases readsRom (evenAddr src) || readsRam (evenAddr src) <;> rfl

theorem kept_pushWord (v : VdpState) (w : Word) : Kept v (pushWord v w) :=
  ((kept_fifoPush _ _).trans (kept_storeWord _ _)).trans (kept_addrAdvance _)

theorem kept_pushWords (word : Nat → Word) (v : VdpState) (k : Nat) : Kept v (pushWords word v k) := by
  induction k with
  | zero => exact Kept.refl v
  | succ k ih => exact ih.trans (kept_pushWord _ _)

/-- R322: the state and the source after `k` words. -/
theorem dma68kRun_eq (s : State) (k : Nat) : dma68kWord^[k] (s, s.vdp.cpuSource) =
    (withRun s (pushWords (copyWord s) s.vdp k) (copyDraws s k),
      blockAddr (copyStart s.vdp) (k * (s.vdp.r 15).toNat)) := by
  induction k with
  | zero =>
    rw [cpuSource_eq, Nat.zero_mul]
    unfold copyDraws
    rw [Nat.add_zero, ite_self]
    rfl
  | succ k ih =>
    have hreg := (kept_pushWords (copyWord s) s.vdp k).reg
    rw [Function.iterate_succ_apply', ih, dma68kWord_withRun, nextSource_blockAddr (copyStart_lt s.vdp),
      inc_of_reg hreg, toNat_inc, ← Nat.succ_mul]
    change (withRun s (pushWord _ (sourceWord s.bus (copyEven s.vdp k) _))
      (if readsRom (copyEven s.vdp k) || readsRam (copyEven s.vdp k) then _ else _), _) = _
    rw [sourceWord_copyDraws, ← copyDraws_succ]
    rfl

theorem dma68k_eq (s : State) : s.dma68k =
    withRun s
      ((pushWords (copyWord s) s.vdp s.vdp.dmaLength).dmaPostUpdate
        (blockAddr (copyStart s.vdp) (s.vdp.dmaLength * (s.vdp.r 15).toNat)))
      (copyDraws s s.vdp.dmaLength) := by
  unfold State.dma68k
  rw [dma68kRun_eq]
  rfl

/-! ### The words of a CPU copy, cell by cell -/

section Words

variable (word : Nat → Word) (v : VdpState) (k : Nat)

theorem pushWords_addr : (pushWords word v k).addr = addrAfter v k := by
  induction k with
  | zero => simp [pushWords, addrAfter]
  | succ k ih =>
    rw [pushWords_succ]
    unfold pushWord
    rw [addrAdvance_addr, storeWord_addr, inc_of_reg (kept_storeWord _ _).reg, fifoPush_addr, ih,
      inc_of_reg ((kept_pushWords word v k).trans (kept_fifoPush _ _)).reg, addrAfter_succ]

/-! One word, cell by cell. -/

theorem read_pushWord (w : Word) (x : Nat) : (pushWord v w).vram.read x =
    if writeRow v.code = .vram ∧ (x = v.addr.toNat ∨ x = (v.addr ^^^ 1).toNat) then
      if x = (v.addr ^^^ 1).toNat then loByte w else hiByte w
    else v.vram.read x := by
  unfold pushWord VdpState.storeWord
  rw [fifoPush_code]
  cases writeRow v.code
  case vram =>
    simp only [true_and]
    refine (read_vramWritePair (v.fifoPush w) v.addr w x).trans ?_
    by_cases hlo : x = (v.addr ^^^ 1).toNat
    · rw [if_pos hlo, if_pos (Or.inr hlo), if_pos hlo]
    · simp only [hlo, or_false]
      rfl
  all_goals rfl

theorem satCache_pushWord (w : Word) (x : Nat) : (pushWord v w).satCache.read x =
    if writeRow v.code = .vram ∧ x < v.satSize ∧
      (v.satBase.toNat + x = v.addr.toNat ∨ v.satBase.toNat + x = (v.addr ^^^ 1).toNat)
    then if v.satBase.toNat + x = (v.addr ^^^ 1).toNat then loByte w else hiByte w
    else v.satCache.read x := by
  have hvram := read_pushWord v w (v.satBase.toNat + x)
  unfold pushWord VdpState.storeWord at hvram ⊢
  rw [fifoPush_code] at hvram ⊢
  cases hrow : writeRow v.code
  case vram =>
    simp only [hrow, true_and] at hvram ⊢
    refine (satCache_vramWritePair (v.fifoPush w) v.addr w x).trans ?_
    change (if x < v.satSize ∧ _ then _ else _) = _
    refine ite_congr rfl (fun hin => ?_) (fun _ => rfl)
    rw [if_pos hin.2] at hvram
    exact hvram
  all_goals rfl

theorem cram_pushWord (w : Word) (e : Fin 64) : (pushWord v w).cram[e] =
    if writeRow v.code = .cram ∧ e.val = v.addr.toNat / 2 % 64 then w else v.cram[e] := by
  unfold pushWord VdpState.storeWord
  rw [fifoPush_code]
  cases writeRow v.code
  case cram => simp only [true_and]; exact getElem_set_entryIndex v.cram v.addr w e
  all_goals rfl

theorem vsram_pushWord (w : Word) (e : Fin 64) : (pushWord v w).vsram[e] =
    if writeRow v.code = .vsram ∧ e.val = v.addr.toNat / 2 % 64 then w else v.vsram[e] := by
  unfold pushWord VdpState.storeWord
  rw [fifoPush_code]
  cases writeRow v.code
  case vsram => simp only [true_and]; exact getElem_set_entryIndex v.vsram v.addr w e
  all_goals rfl

/-! A sequence of words, cell by cell. -/

theorem follows_words_vram (x : Nat) : Follows (fun k => (pushWords word v k).vram.read x)
    (fun k => writeRow v.code = .vram ∧ (x = (addrAfter v k).toNat ∨ x = (addrAfter v k ^^^ 1).toNat))
    (fun k => if x = (addrAfter v k ^^^ 1).toNat then loByte (word k) else hiByte (word k)) :=
  follows_of_ite fun k => by
    rw [pushWords_succ, read_pushWord, (kept_pushWords word v k).code, pushWords_addr]

theorem follows_words_satCache (x : Nat) : Follows (fun k => (pushWords word v k).satCache.read x)
    (fun k => writeRow v.code = .vram ∧ x < v.satSize ∧
      (v.satBase.toNat + x = (addrAfter v k).toNat ∨ v.satBase.toNat + x = (addrAfter v k ^^^ 1).toNat))
    (fun k => if v.satBase.toNat + x = (addrAfter v k ^^^ 1).toNat then loByte (word k) else hiByte (word k)) :=
  follows_of_ite fun k => by
    have hkept := kept_pushWords word v k
    rw [pushWords_succ, satCache_pushWord, hkept.code, satBase_of_reg hkept.reg, satSize_of_reg hkept.reg, pushWords_addr]

theorem follows_words_cram (e : Fin 64) : Follows (fun k => (pushWords word v k).cram[e])
    (fun k => writeRow v.code = .cram ∧ e.val = (addrAfter v k).toNat / 2 % 64) word :=
  follows_of_ite fun k => by
    rw [pushWords_succ, cram_pushWord, (kept_pushWords word v k).code, pushWords_addr]

theorem follows_words_vsram (e : Fin 64) : Follows (fun k => (pushWords word v k).vsram[e])
    (fun k => writeRow v.code = .vsram ∧ e.val = (addrAfter v k).toNat / 2 % 64) word :=
  follows_of_ite fun k => by
    rw [pushWords_succ, vsram_pushWord, (kept_pushWords word v k).code, pushWords_addr]

/-- R281: a push moves every word one place on. -/
theorem fifo_pushWord (w : Word) (i : Fin 4) : (pushWord v w).fifo[i] =
    if i.val = 0 then w else v.fifo[(⟨i.val - 1, Nat.lt_of_le_of_lt (Nat.sub_le _ _) i.isLt⟩ : Fin 4)] := by
  unfold pushWord
  rw [addrAdvance_fifo, storeWord_fifo]
  fin_cases i <;> rfl

/-- R281: the FIFO holds the last words pushed, the newest first, and behind them what it held. -/
theorem pushWords_fifo (i : Fin 4) : (pushWords word v k).fifo[i] =
    if i.val < k then word (k - 1 - i.val)
    else v.fifo[(⟨i.val - k, Nat.lt_of_le_of_lt (Nat.sub_le _ _) i.isLt⟩ : Fin 4)] := by
  induction k generalizing i with
  | zero => rfl
  | succ k ih =>
    rw [pushWords_succ, fifo_pushWord]
    by_cases hi : i.val = 0
    · rw [if_pos hi, if_pos (by omega), hi]
      rfl
    · rw [if_neg hi, ih]
      have hlt : i.val - 1 < k ↔ i.val < k + 1 := by omega
      have hnew : k - 1 - (i.val - 1) = k + 1 - 1 - i.val := by omega
      have hold : i.val - 1 - k = i.val - (k + 1) := by omega
      simp only [hlt, hnew, hold]

end Words

/-! ### A CPU copy as a whole -/

/-- The VDP after a CPU copy of `n` words. -/
def copiedVdp (s : State) (n : Nat) : VdpState :=
  (pushWords (copyWord s) s.vdp n).dmaPostUpdate (blockAddr (copyStart s.vdp) (n * (s.vdp.r 15).toNat))

theorem exec_dma68k (s : State) : exec .dma68k s =
    .next ((withRun s (copiedVdp s s.vdp.dmaLength) (copyDraws s s.vdp.dmaLength)).replied .done) := by
  have hrow : exec .dma68k s = finish s.dma68k := rfl
  rw [hrow, dma68k_eq]
  rfl

section CopiedVdp

variable (s : State) (n : Nat)

/-! The engine's register updates leave the words' memories, the FIFO and the address as they are. -/

theorem copiedVdp_vram : (copiedVdp s n).vram = (pushWords (copyWord s) s.vdp n).vram := rfl

theorem copiedVdp_satCache : (copiedVdp s n).satCache = (pushWords (copyWord s) s.vdp n).satCache := rfl

theorem copiedVdp_cram (e : Fin 64) : (copiedVdp s n).cram[e] = (pushWords (copyWord s) s.vdp n).cram[e] := rfl

theorem copiedVdp_vsram (e : Fin 64) : (copiedVdp s n).vsram[e] = (pushWords (copyWord s) s.vdp n).vsram[e] := rfl

theorem copiedVdp_addr : (copiedVdp s n).addr = addrAfter s.vdp n := pushWords_addr (copyWord s) s.vdp n

theorem copiedVdp_code : (copiedVdp s n).code = s.vdp.code := (kept_pushWords (copyWord s) s.vdp n).code

theorem copiedVdp_pending : (copiedVdp s n).pending = s.vdp.pending := (kept_pushWords (copyWord s) s.vdp n).pending

theorem copiedVdp_fillPending : (copiedVdp s n).fillPending = s.vdp.fillPending :=
  (kept_pushWords (copyWord s) s.vdp n).fillPending

theorem copiedVdp_hvLatchValue : (copiedVdp s n).hvLatchValue = s.vdp.hvLatchValue :=
  (kept_pushWords (copyWord s) s.vdp n).hvLatchValue

/-- R324: the registers after a CPU copy. -/
theorem copiedVdp_r (i : Fin 32) : (copiedVdp s n).r i =
    if i = 19 ∨ i = 20 then 0
    else if i = 21 then (blockAddr (copyStart s.vdp) (n * (s.vdp.r 15).toNat)).extractLsb' 1 8
    else if i = 22 then (blockAddr (copyStart s.vdp) (n * (s.vdp.r 15).toNat)).extractLsb' 9 8
    else s.vdp.r i := by
  unfold copiedVdp
  rw [dmaPostUpdate_r, r_of_reg (kept_pushWords (copyWord s) s.vdp n).reg]

/-- R324: the source registers of a CPU copy, in numbers. -/
theorem toNat_copiedVdp_source {low : Nat} (hlow : low = (copyStart s.vdp + n * (s.vdp.r 15).toNat) % 0x20000) :
    ((copiedVdp s n).r 21).toNat = low / 2 % 256 ∧ ((copiedVdp s n).r 22).toNat = low / 512 := by
  have hsource := toNat_blockAddr (copyStart_lt s.vdp) (n * (s.vdp.r 15).toNat)
  rw [copiedVdp_r, copiedVdp_r]
  constructor
  · rw [if_neg (by decide), if_pos rfl, BitVec.extractLsb'_toNat, hsource, Nat.shiftRight_eq_div_pow]
    omega
  · rw [if_neg (by decide), if_neg (by decide), if_pos rfl, BitVec.extractLsb'_toNat, hsource, Nat.shiftRight_eq_div_pow]
    omega

end CopiedVdp

theorem runFrame_copiedVdp (s : State) (d : Nat) :
    RunFrame s ((withRun s (copiedVdp s s.vdp.dmaLength) d).replied .done) s.vdp.fillPending :=
  runFrame_withRun (copiedVdp_code s _) (copiedVdp_pending s _) (copiedVdp_hvLatchValue s _) (copiedVdp_addr s _)
    (copiedVdp_fillPending s _) d

/-! Increment 2 from an even VRAM address: the words' bytes follow one another. -/

theorem toNat_addrAfter_of_two {v : VdpState} (hinc : v.r 15 = 2) (k : Nat) :
    (addrAfter v k).toNat = (v.addr.toNat + 2 * k) % 0x10000 := by
  rw [addrAfter_eq, hinc, BitVec.toNat_add, BitVec.toNat_ofNat, show (2 : Byte).toNat = 2 from rfl]
  omega

theorem toNat_addrAfter_xor_of_two {v : VdpState} (hinc : v.r 15 = 2) (heven : v.addr.getLsbD 0 = false) (k : Nat) :
    (addrAfter v k ^^^ 1).toNat = (v.addr.toNat + (2 * k + 1)) % 0x10000 := by
  have hbit : v.addr.toNat % 2 = 0 := by
    simpa [BitVec.getLsbD, Nat.testBit_zero] using heven
  have haddr := toNat_addrAfter_of_two hinc k
  have hword : Even (addrAfter v k).toNat := Nat.even_iff.mpr (by omega)
  rw [BitVec.toNat_xor, show (1 : Word).toNat = 1 from rfl, Nat.xor_one_of_even hword]
  omega

/-- R323: increment 2 through work RAM: the index of each word's first byte. -/
theorem copyWord_of_two {s : State} (hinc : s.vdp.r 15 = 2) (hram : (s.vdp.r 23).extractLsb' 4 3 = 0b111) {low : Nat}
    (hlow : low = 512 * (s.vdp.r 22).toNat + 2 * (s.vdp.r 21).toNat) (k : Nat) :
    copyWord s k = s.bus.wram.read ((low + 2 * k) % 0x10000) ++ s.bus.wram.read ((low + (2 * k + 1)) % 0x10000) := by
  have hblock : ∀ b : Byte, b.extractLsb' 4 3 = 0b111 → 112 ≤ b.toNat % 128 := by decide
  have htop := hblock _ hram
  have heven := toNat_copyEven s.vdp k
  rw [hinc, show (2 : Byte).toNat = 2 from rfl] at heven
  unfold copyStart at heven
  have hrom : ¬readsRom (copyEven s.vdp k) = true := by
    rw [readsRom_iff]
    omega
  have hreads : readsRam (copyEven s.vdp k) = true := by
    rw [readsRam_iff]
    omega
  have hindex : (copyEven s.vdp k).toNat % 0x10000 = (low + 2 * k) % 0x10000 := by omega
  have hnext : (low + 2 * k) % 0x10000 + 1 = (low + (2 * k + 1)) % 0x10000 := by omega
  unfold copyWord sourceWord
  rw [if_neg hrom, if_pos hreads, hindex, hnext]

theorem hiByte_append (h l : Byte) : hiByte (h ++ l) = h := BitVec.extractLsb'_append_eq_left

theorem loByte_append (h l : Byte) : loByte (h ++ l) = l := BitVec.extractLsb'_append_eq_right

/-- R103: a word's two bytes stand at its address and the neighbour, unless a later word has gone to either. -/
theorem words_vram_last {word : Nat → Word} {v : VdpState} (hcode : writeRow v.code = .vram) {n k : Nat} (hk : k < n)
    (hlater : ∀ j, k < j → j < n → addrAfter v j ≠ addrAfter v k ∧ addrAfter v j ≠ addrAfter v k ^^^ 1) :
    (pushWords word v n).vram.read (addrAfter v k).toNat = hiByte (word k) ∧
      (pushWords word v n).vram.read (addrAfter v k ^^^ 1).toNat = loByte (word k) := by
  constructor
  · refine ((follows_words_vram word v _).of_last_hit hk ⟨hcode, Or.inl rfl⟩ fun j hkj hj ⟨_, hhit⟩ => ?_).trans
      (if_neg (xor_one_ne _))
    obtain ⟨hsame, hneighbour⟩ := hlater j hkj hj
    rw [BitVec.toNat_inj, BitVec.toNat_inj] at hhit
    obtain h | h := hhit
    · exact hsame h.symm
    · exact hneighbour (by rw [h, BitVec.xor_assoc, BitVec.xor_self, BitVec.xor_zero])
  · refine ((follows_words_vram word v _).of_last_hit hk ⟨hcode, Or.inr rfl⟩ fun j hkj hj ⟨_, hhit⟩ => ?_).trans
      (if_pos rfl)
    obtain ⟨hsame, hneighbour⟩ := hlater j hkj hj
    rw [BitVec.toNat_inj, BitVec.toNat_inj] at hhit
    obtain h | h := hhit
    · exact hneighbour h.symm
    · exact hsame (by simpa using h.symm)

/-- Increment 2 from work RAM to an even VRAM address: up to 64 KiB move in order, and nothing else changes. -/
theorem words_in_order {s : State} (hcode : writeRow s.vdp.code = .vram) (hinc : s.vdp.r 15 = 2)
    (heven : s.vdp.addr.getLsbD 0 = false) (hram : (s.vdp.r 23).extractLsb' 4 3 = 0b111) {n low : Nat} (hn : n ≤ 32768)
    (hlow : low = 512 * (s.vdp.r 22).toNat + 2 * (s.vdp.r 21).toNat) :
    (∀ k, k < 2 * n → (pushWords (copyWord s) s.vdp n).vram.read ((s.vdp.addr.toNat + k) % 0x10000) =
      s.bus.wram.read ((low + k) % 0x10000)) ∧
    ∀ x, (∀ k, k < 2 * n → x ≠ (s.vdp.addr.toNat + k) % 0x10000) →
      (pushWords (copyWord s) s.vdp n).vram.read x = s.vdp.vram.read x := by
  have hfirst := toNat_addrAfter_of_two hinc
  have hsecond := toNat_addrAfter_xor_of_two hinc heven
  constructor
  · intro k hk
    have hm : k / 2 < n := by omega
    have hlast := words_vram_last (word := copyWord s) hcode hm fun j hmj hj => by
      rw [Ne, Ne, ← BitVec.toNat_inj, ← BitVec.toNat_inj, hfirst, hfirst, hsecond]
      omega
    rw [hfirst, hsecond, copyWord_of_two hinc hram hlow, hiByte_append, loByte_append] at hlast
    obtain ⟨hhi, hlo⟩ := hlast
    by_cases hbit : k % 2 = 0
    · rwa [show 2 * (k / 2) = k by omega] at hhi
    · rwa [show 2 * (k / 2) + 1 = k by omega] at hlo
  · refine fun x hx => (follows_words_vram (copyWord s) s.vdp x).of_not_hit fun k hk ⟨_, hhit⟩ => ?_
    rw [hfirst, hsecond] at hhit
    obtain h | h := hhit
    · exact hx (2 * k) (by omega) h
    · exact hx (2 * k + 1) (by omega) h

/-- Settles O45: the copy is its sequence of words (`dma68k_eq`), and each cell follows the words that go to it. -/
theorem cpuCopyMovesWords : Obligations.CpuCopyMovesWords := by
  intro s n inc code start even isRom isRam word dst entry
  have hdst : addrAfter s.vdp = dst := funext (addrAfter_eq s.vdp)
  have hword : copyWord s = word := rfl
  have hvramCode : code = 0x01 ↔ writeRow s.vdp.code = .vram := (writeRow_vram_iff _).symm
  have hcramCode : code = 0x03 ↔ writeRow s.vdp.code = .cram := (writeRow_cram_iff _).symm
  have hvsramCode : code = 0x05 ↔ writeRow s.vdp.code = .vsram := (writeRow_vsram_iff _).symm
  have hvram := follows_words_vram (copyWord s) s.vdp
  have hcache := follows_words_satCache (copyWord s) s.vdp
  have hcram := follows_words_cram (copyWord s) s.vdp
  have hvsram := follows_words_vsram (copyWord s) s.vdp
  refine ⟨(withRun s (copiedVdp s s.vdp.dmaLength) (copyDraws s s.vdp.dmaLength)).replied .done, exec_dma68k s, ?frame,
    ?fifo, ?_⟩
  case frame =>
    have hdraws : copyDraws s n = if isRom 0 || isRam 0 then s.env.draws else s.env.draws + n := rfl
    rw [← hdraws, ← hdst]
    exact runFrame_copiedVdp s (copyDraws s n)
  case fifo => exact pushWords_fifo (copyWord s) s.vdp n
  simp only [replied_vdp, withRun_vdp, copiedVdp_vram, copiedVdp_satCache, copiedVdp_cram, copiedVdp_vsram,
    hvramCode, hcramCode, hvsramCode, ← hword, ← hdst, n, entry]
  refine ⟨?vram, ?vramKept, ?cache, ?cacheKept, ?cram, ?cramKept, ?vsram, ?vsramKept, ?inOrder⟩
  case vram =>
    exact fun k hk hcode hlater => words_vram_last hcode hk hlater
  case vramKept =>
    exact fun x hx => (hvram x).of_not_hit fun k hk ⟨hcode, hdst⟩ => hx ⟨hcode, k, hk, hdst⟩
  case cache =>
    exact fun x hsize hcode ⟨k, hk, hhit⟩ => (hcache x).agree (hvram _)
      (fun _ => and_congr_right fun _ => and_iff_right hsize) ⟨k, hk, hcode, hhit⟩
  case cacheKept =>
    exact fun x hx => (hcache x).of_not_hit fun k hk ⟨hcode, hsize, hdst⟩ => hx ⟨hsize, hcode, k, hk, hdst⟩
  case cram =>
    exact fun e k hk hcode he hlater => (hcram e).of_last_hit hk ⟨hcode, he⟩ fun j hkj hj ⟨_, hej⟩ =>
      hlater j hkj hj (hej.symm.trans he)
  case cramKept => exact fun e he => (hcram e).of_not_hit fun k hk ⟨hcode, hentry⟩ => he ⟨hcode, k, hk, hentry⟩
  case vsram =>
    exact fun e k hk hcode he hlater => (hvsram e).of_last_hit hk ⟨hcode, he⟩ fun j hkj hj ⟨_, hej⟩ =>
      hlater j hkj hj (hej.symm.trans he)
  case vsramKept => exact fun e he => (hvsram e).of_not_hit fun k hk ⟨hcode, hentry⟩ => he ⟨hcode, k, hk, hentry⟩
  case inOrder => exact fun hcode hinc heven hram hn => words_in_order hcode hinc heven hram hn rfl

/-! ### What every run leaves -/

/-- Settles O46: run by run, from its frame and its registers. -/
theorem runsInCommon : Obligations.RunsInCommon := by
  intro s v i hi n
  simp only [List.mem_cons, List.not_mem_nil, or_false] at hi
  obtain rfl | rfl | rfl := hi
  case inl =>
    have hr := copiedVdp_r s n
    exact ⟨_, exec_dma68k s, runFrame_copiedVdp s _, hr 19, hr 20,
      fun j h19 h20 h21 h22 => (hr j).trans (by simp only [h19, h20, h21, h22, or_self, if_false]),
      fun _ => toNat_copiedVdp_source s n rfl⟩
  case inr.inl =>
    have hr := dmaCopy_r s.vdp
    exact ⟨_, rfl, runFrame_dmaCopy s, hr 19, hr 20,
      fun j h19 h20 h21 h22 => (hr j).trans (by simp only [h19, h20, h21, h22, or_self, if_false]), nofun⟩
  case inr.inr =>
    have hr := fireFill_r s.vdp v
    rw [if_pos rfl]
    exact ⟨_, rfl, runFrame_fireFill s v, hr 19, hr 20,
      fun j h19 h20 _ _ => (hr j).trans (by simp only [h19, h20, or_self, if_false]), nofun⟩

end Sys2Proof.Proofs
end

section
/-! PROOFS. The statement of 42_dma.md on an armed fill: what keeps it armed and what clears it (O48). -/

namespace Sys2Proof.Proofs

open Sys2Proof.Machine Sys2Proof.Laws

/-! ### The fill flag through the control port -/

theorem regWrite_fillPending (s : State) (r : BitVec 5) (v : Byte) :
    (s.regWrite r v).vdp.fillPending = s.vdp.fillPending := by
  rw [regWrite_eq]
  rfl

/-- R330: of the runs a command can trigger, the fill is armed again and the copies leave the flag alone. -/
theorem triggerDma_armed {s : State} (h : s.vdp.fillPending = true) : s.triggerDma.vdp.fillPending = true := by
  unfold State.triggerDma
  split
  · exact (dma68k_fillPending s).trans h
  · rfl
  · exact (dmaCopy_fillPending s.vdp).trans h

theorem cmdWord2_armed {s : State} (h : s.vdp.fillPending = true) (cd52 : BitVec 4) (a : BitVec 2) :
    (s.cmdWord2 cd52 a).vdp.fillPending = true := by
  unfold State.cmdWord2
  dsimp only
  split
  · exact triggerDma_armed h
  · exact h

theorem ctrlWrite_armed {s : State} (h : s.vdp.fillPending = true) (w : Word) : (s.ctrlWrite w).vdp.fillPending = true := by
  unfold State.ctrlWrite
  split
  · exact cmdWord2_armed h _ _
  · split
    · exact (regWrite_fillPending s _ _).trans h
    · exact h

/-- R261: with the latch Idle a control word is no second command word, so it triggers no DMA. -/
theorem ctrlWrite_fillPending_of_idle {s : State} (h : s.vdp.pending = false) (w : Word) :
    (s.ctrlWrite w).vdp.fillPending = s.vdp.fillPending := by
  unfold State.ctrlWrite
  rw [if_neg (by simp [h])]
  split
  · exact regWrite_fillPending s _ _
  · rfl

/-! ### The fill flag through the data port -/

/-- R280: no fill is armed and the latch is Idle, as every data write leaves it. -/
def Disarmed (v : VdpState) : Prop := v.fillPending = false ∧ v.pending = false

theorem disarmed_dataEnd {v : VdpState} (h : v.pending = false) (w : Word) : Disarmed (v.dataEnd w) := by
  cases hfill : v.fillPending
  case false =>
    rw [dataEnd_of_not_armed hfill]
    exact ⟨hfill, h⟩
  case true =>
    rw [dataEnd_of_armed hfill]
    exact ⟨fireFill_fillPending v w, (runFill_pending _ w).trans h⟩

/-! R282-R285, R287: each row ends with R280's common lines. -/

theorem disarmed_writeVram (v : VdpState) (w : Word) : Disarmed (v.writeVram w) := disarmed_dataEnd rfl w

theorem disarmed_writeCram (v : VdpState) (w : Word) : Disarmed (v.writeCram w) := disarmed_dataEnd rfl w

theorem disarmed_writeVsram (v : VdpState) (w : Word) : Disarmed (v.writeVsram w) := disarmed_dataEnd rfl w

theorem disarmed_writeNotarget (v : VdpState) (w : Word) : Disarmed (v.writeNotarget w) := disarmed_dataEnd rfl w

theorem disarmed_writeReadcode (v : VdpState) (w : Word) : Disarmed (v.writeReadcode w) := disarmed_dataEnd rfl w

theorem disarmed_dataWrite (v : VdpState) (w : Word) : Disarmed (v.dataWrite w) := by
  unfold VdpState.dataWrite
  split
  exacts [disarmed_writeVram v w, disarmed_writeCram v w, disarmed_writeVsram v w, disarmed_writeNotarget v w,
    disarmed_writeReadcode v w]

/-! ### The fill flag through the ports -/

theorem hvRead_fillPending (s : State) : s.hvRead.2.vdp.fillPending = s.vdp.fillPending := by
  unfold State.hvRead
  split <;> rfl

theorem dataRead_fillPending (s : State) : s.dataRead.2.vdp.fillPending = s.vdp.fillPending := by
  unfold State.dataRead
  split <;> rfl

theorem vdpRead16_fillPending (s : State) (off : BitVec 5) : (s.vdpRead16 off).2.vdp.fillPending = s.vdp.fillPending := by
  unfold State.vdpRead16
  split
  exacts [dataRead_fillPending s, rfl, hvRead_fillPending s, rfl, rfl]

theorem vdpRead8_fillPending (s : State) (off : BitVec 5) : (s.vdpRead8 off).2.vdp.fillPending = s.vdp.fillPending :=
  vdpRead16_fillPending s _

theorem vdpRead32_fillPending (s : State) (off : BitVec 5) : (s.vdpRead32 off).2.vdp.fillPending = s.vdp.fillPending :=
  (vdpRead16_fillPending _ _).trans (vdpRead16_fillPending s _)

/-! Writes, by whether the offset is one of the data port's (R151). -/

theorem vdpWrite16_data (s : State) {off : BitVec 5} (h : off.toNat < 4) (v : Word) :
    Disarmed (s.vdpWrite16 off v).vdp := by
  unfold State.vdpWrite16
  rw [portRow_eq, if_pos h]
  exact disarmed_dataWrite s.vdp v

theorem vdpWrite16_armed {s : State} (hfill : s.vdp.fillPending = true) {off : BitVec 5} (h : 4 ≤ off.toNat) (v : Word) :
    (s.vdpWrite16 off v).vdp.fillPending = true := by
  have hrow : portRow off ≠ .data := by
    rw [portRow_eq, if_neg (by omega)]
    split_ifs <;> exact nofun
  unfold State.vdpWrite16
  split
  · contradiction
  · exact ctrlWrite_armed hfill v
  all_goals exact hfill

theorem vdpWrite16_disarmed {s : State} (h : Disarmed s.vdp) (off : BitVec 5) (v : Word) :
    (s.vdpWrite16 off v).vdp.fillPending = false := by
  obtain ⟨hfill, hlatch⟩ := h
  unfold State.vdpWrite16
  split
  · exact (disarmed_dataWrite s.vdp v).1
  · exact (ctrlWrite_fillPending_of_idle hlatch v).trans hfill
  all_goals exact hfill

theorem toNat_evenOffset : ∀ off : BitVec 5, (off &&& 0x1E).toNat = off.toNat / 2 * 2 := by decide

theorem vdpWrite8_data (s : State) {off : BitVec 5} (h : off.toNat < 4) (b : Byte) : Disarmed (s.vdpWrite8 off b).vdp :=
  vdpWrite16_data s (by rw [toNat_evenOffset]; omega) _

theorem vdpWrite8_armed {s : State} (hfill : s.vdp.fillPending = true) {off : BitVec 5} (h : 4 ≤ off.toNat) (b : Byte) :
    (s.vdpWrite8 off b).vdp.fillPending = true :=
  vdpWrite16_armed hfill (by rw [toNat_evenOffset]; omega) _

/-- The data write of a long write's first half leaves the latch Idle, so a second half at the control port arms no fill. -/
theorem vdpWrite32_data (s : State) {off : BitVec 5} (h : off.toNat < 4) (v : Long) :
    (s.vdpWrite32 off v).vdp.fillPending = false :=
  vdpWrite16_disarmed (vdpWrite16_data s (by rw [toNat_evenOffset]; omega) _) _ _

theorem vdpWrite32_armed {s : State} (hfill : s.vdp.fillPending = true) {off : BitVec 5} (hle : 4 ≤ off.toNat)
    (hlt : off.toNat < 0x1E) (v : Long) : (s.vdpWrite32 off v).vdp.fillPending = true := by
  refine vdpWrite16_armed (vdpWrite16_armed hfill (by rw [toNat_evenOffset]; omega) _) ?_ _
  rw [BitVec.toNat_add, toNat_evenOffset, show (2 : BitVec 5).toNat = 2 from rfl]
  omega

/-! ### The fill flag through the bus -/

theorem rd8_fillPending (s : State) (r : Region) (a : Addr) : (s.rd8 r a).2.vdp.fillPending = s.vdp.fillPending := by
  cases r
  case vdp => exact vdpRead8_fillPending s _
  case busReq =>
    unfold State.rd8 State.busReqRead
    dsimp only
    split <;> rfl
  all_goals rfl

theorem wr8_vdp_of_ne (s : State) {r : Region} (h : r ≠ .vdp) (a : Addr) (b : Byte) : (s.wr8 r a b).vdp = s.vdp := by
  cases r
  case vdp => contradiction
  case busReq =>
    unfold State.wr8 State.busReqWrite
    dsimp only
    split <;> rfl
  case soundReset =>
    unfold State.wr8 State.soundResetWrite
    dsimp only
    split <;> rfl
  all_goals rfl

theorem busRead8_fillPending (s : State) (a : Addr) : (s.busRead8 a).2.vdp.fillPending = s.vdp.fillPending :=
  rd8_fillPending s _ a

theorem busRead16_fillPending (s : State) (a : Addr) : (s.busRead16 a).2.vdp.fillPending = s.vdp.fillPending := by
  cases h : classify (evenAddr a).toNat
  case rom | romMirror => rw [busRead16_rom s h (by decide)]
  case ram => rw [busRead16_ram s h rfl]
  case soundRam | synth | soundBank | io | busReq | soundReset =>
    rw [busRead16_twice s h (by decide)]
    exact rd8_fillPending s _ _
  case vdp =>
    rw [busRead16_vdp s h rfl]
    exact vdpRead16_fillPending s _
  case soundVdp | soundRomView | unmapped => rw [busRead16_unmapped s h (by decide)]

theorem busRead32_fillPending (s : State) (a : Addr) : (s.busRead32 a).2.vdp.fillPending = s.vdp.fillPending :=
  (busRead16_fillPending _ _).trans (busRead16_fillPending s _)

theorem soundRead8_fillPending (s : State) (z : Word) : (s.soundRead8 z).2.vdp.fillPending = s.vdp.fillPending := by
  by_cases hwindow : z.toNat < 0x7F00
  · rw [soundRead8_window s hwindow]
    exact busRead8_fillPending s _
  by_cases hports : z.toNat < 0x8000
  · rw [soundRead8_vdp s (by omega) hports]
    exact vdpRead8_fillPending s _
  · rw [soundRead8_bank s (by omega)]
    split
    · rfl
    · exact busRead8_fillPending s _

theorem busWrite16_vdp_of_ne (s : State) {a : Addr} (hne : classify (evenAddr a).toNat ≠ .vdp) (v : Word) :
    (s.busWrite16 a v).vdp = s.vdp := by
  cases h : classify (evenAddr a).toNat
  case ram => rw [busWrite16_ram s h rfl]
  case rom | romMirror | soundVdp | soundRomView | unmapped => rw [busWrite16_ignored s h (by decide)]
  case soundRam | synth | soundBank | busReq | soundReset =>
    rw [busWrite16_hiByte s h (by decide)]
    exact wr8_vdp_of_ne s (by decide) _ _
  case io =>
    rw [busWrite16_io s h rfl]
    exact wr8_vdp_of_ne s (by decide) _ _
  case vdp => contradiction

/-- R211: an access at this address reaches the data port. -/
def ReachesData (a : Addr) : Prop := (addrRow a).region = .vdp ∧ a.toNat % 32 < 4

theorem reachesData_iff (a : Addr) : ReachesData a ↔ (0xC00000 ≤ a.toNat ∧ a.toNat < 0xE00000) ∧ a.toNat % 32 < 4 := by
  unfold ReachesData
  rw [← classify_eq_region, classify_vdp_iff a.isLt]

theorem reachesData_evenAddr (a : Addr) : ReachesData (evenAddr a) ↔ ReachesData a := by
  rw [reachesData_iff, reachesData_iff, toNat_evenAddr]
  omega

theorem toNat_portOffset (a : Addr) : (a.extractLsb' 0 5).toNat = a.toNat % 32 := by
  rw [BitVec.extractLsb'_toNat, Nat.shiftRight_zero]

section BusWrites

variable {s : State} {a : Addr}

theorem wr8_data (h : a.toNat % 32 < 4) (b : Byte) : Disarmed (s.wr8 .vdp a b).vdp :=
  vdpWrite8_data s (by rwa [toNat_portOffset]) b

theorem wr8_armed (hfill : s.vdp.fillPending = true) (h : ¬a.toNat % 32 < 4) (b : Byte) :
    (s.wr8 .vdp a b).vdp.fillPending = true :=
  vdpWrite8_armed hfill (by rw [toNat_portOffset]; omega) b

theorem busWrite8_data (h : ReachesData a) (b : Byte) : Disarmed (s.busWrite8 a b).vdp := by
  obtain ⟨hregion, hoff⟩ := h
  unfold State.busWrite8
  rw [classify_eq_region, hregion]
  exact wr8_data hoff b

theorem busWrite8_armed (hfill : s.vdp.fillPending = true) (h : ¬ReachesData a) (b : Byte) :
    (s.busWrite8 a b).vdp.fillPending = true := by
  unfold State.busWrite8
  rw [classify_eq_region]
  by_cases hregion : (addrRow a).region = .vdp
  · rw [hregion]
    exact wr8_armed hfill (fun hoff => h ⟨hregion, hoff⟩) b
  · rw [wr8_vdp_of_ne s hregion]
    exact hfill

theorem busWrite16_data (h : ReachesData a) (v : Word) : Disarmed (s.busWrite16 a v).vdp := by
  rw [← reachesData_evenAddr] at h
  obtain ⟨hregion, hoff⟩ := h
  rw [busWrite16_vdp s ((classify_eq_region _).trans hregion) rfl]
  exact vdpWrite16_data s (by rwa [toNat_portOffset]) v

theorem busWrite16_armed (hfill : s.vdp.fillPending = true) (h : ¬ReachesData a) (v : Word) :
    (s.busWrite16 a v).vdp.fillPending = true := by
  rw [← reachesData_evenAddr] at h
  by_cases hregion : classify (evenAddr a).toNat = .vdp
  · rw [busWrite16_vdp s hregion rfl]
    refine vdpWrite16_armed hfill ?_ v
    rw [toNat_portOffset]
    exact Nat.le_of_not_lt fun hoff => h ⟨(classify_eq_region _).symm.trans hregion, hoff⟩
  · rw [busWrite16_vdp_of_ne s hregion]
    exact hfill

theorem busWrite16_disarmed (h : Disarmed s.vdp) (v : Word) : (s.busWrite16 a v).vdp.fillPending = false := by
  by_cases hregion : classify (evenAddr a).toNat = .vdp
  · rw [busWrite16_vdp s hregion rfl]
    exact vdpWrite16_disarmed h _ v
  · rw [busWrite16_vdp_of_ne s hregion]
    exact h.1

/-! R219: of a long write's two halves, the second decides if it reaches the data port, and else leaves the first's work. -/

theorem busWrite32_data (h : ReachesData a) (v : Long) : (s.busWrite32 a v).vdp.fillPending = false := by
  rw [busWrite32_eq]
  exact busWrite16_disarmed (busWrite16_data h _) _

theorem busWrite32_data_second (h : ReachesData (a + 2)) (v : Long) : (s.busWrite32 a v).vdp.fillPending = false := by
  rw [busWrite32_eq]
  exact (busWrite16_data h _).1

theorem busWrite32_armed (hfill : s.vdp.fillPending = true) (h : ¬ReachesData a) (hsecond : ¬ReachesData (a + 2))
    (v : Long) : (s.busWrite32 a v).vdp.fillPending = true := by
  rw [busWrite32_eq]
  exact busWrite16_armed (busWrite16_armed hfill h _) hsecond _

end BusWrites

/-- R220, R221: a sound-CPU write at this address reaches the data port, through the window or through the bank. -/
def SoundReachesData (s : State) (z : Word) : Prop :=
  z.toNat % 32 < 4 ∧
    (0x7F00 ≤ z.toNat ∧ z.toNat < 0x8000 ∨ 0x8000 ≤ z.toNat ∧ ReachesData (bankTarget s.bus.bank z))

theorem toNat_bankTarget (bank : BitVec 9) (z : Word) :
    (bankTarget bank z).toNat = bank.toNat * 0x8000 + z.toNat % 0x8000 := by
  unfold bankTarget
  rw [toNat_append_eq_add, BitVec.extractLsb'_toNat, Nat.shiftRight_zero]
  rfl

theorem soundWrite8_data {s : State} {z : Word} (h : SoundReachesData s z) (b : Byte) :
    (s.soundWrite8 z b).vdp.fillPending = false := by
  obtain ⟨hoff, ⟨hle, hlt⟩ | ⟨hle, hbank⟩⟩ := h
  · rw [soundWrite8_vdp s hle hlt]
    refine (vdpWrite8_data s ?_ b).1
    rwa [BitVec.extractLsb'_toNat, Nat.shiftRight_zero]
  · have hregion := (reachesData_iff _).mp hbank
    have hout : ¬inSoundWindow (bankTarget s.bus.bank z) = true := by
      rw [inSoundWindow_iff]
      omega
    rw [soundWrite8_bank s hle, if_neg hout]
    exact (busWrite8_data hbank b).1

theorem soundWrite8_armed {s : State} (hfill : s.vdp.fillPending = true) {z : Word} (h : ¬SoundReachesData s z) (b : Byte) :
    (s.soundWrite8 z b).vdp.fillPending = true := by
  unfold SoundReachesData at h
  by_cases hwindow : z.toNat < 0x7F00
  · rw [soundWrite8_window s hwindow]
    refine busWrite8_armed hfill ?_ b
    rw [reachesData_iff, toNat_soundWindowAddr]
    omega
  by_cases hports : z.toNat < 0x8000
  · rw [soundWrite8_vdp s (by omega) hports]
    refine vdpWrite8_armed hfill ?_ b
    rw [BitVec.extractLsb'_toNat, Nat.shiftRight_zero]
    omega
  · rw [soundWrite8_bank s (by omega)]
    split
    · exact hfill
    · refine busWrite8_armed hfill (fun hbank => ?_) b
      have hoff : (bankTarget s.bus.bank z).toNat % 32 < 4 := hbank.2
      rw [toNat_bankTarget] at hoff
      exact h ⟨by omega, Or.inr ⟨by omega, hbank⟩⟩

/-! ### The fill flag in a frame of idle CPUs -/

/-- The VDP is `v`, and the CPUs have no transaction left to issue. -/
def IdleWith (v : VdpState) (s : State) : Prop := s.vdp = v ∧ s.CpusIdle

section IdleWith

variable {v : VdpState} {s : State} (h : IdleWith v s)

include h

theorem IdleWith.call (e : Event) : IdleWith v (s.call e) := h

theorem IdleWith.sched (c : SchedState) : IdleWith v { s with sched := c } := h

theorem IdleWith.cpuExecute (n : Nat) : IdleWith v (s.cpuExecute n) := by
  have hscript : (s.call (.cpuExecute n)).env.cpuScript = [] := h.2.1
  unfold State.cpuExecute
  dsimp only
  rw [hscript]
  exact h.call _

theorem IdleWith.soundExecute (n : Nat) : IdleWith v (s.soundExecute n) := by
  have hscript : (s.call (.soundExecute n)).env.soundScript = [] := h.2.2
  unfold State.soundExecute
  dsimp only
  rw [hscript]
  exact h.call _

theorem IdleWith.lineCounterStep : IdleWith v s.lineCounterStep := by
  rw [lineCounterStep_eq]
  exact h

theorem IdleWith.renderIfOn (y : Nat) : IdleWith v (s.renderIfOn y) := by
  unfold IdleWith State.CpusIdle
  rw [renderIfOn_vdp, renderIfOn_events]
  exact h

theorem IdleWith.frameInterrupt : IdleWith v s.frameInterrupt := by
  unfold State.frameInterrupt
  split
  exacts [h.call _, h]

theorem IdleWith.visibleLine (y : Nat) : IdleWith v (s.visibleLine y) :=
  ((((((((((h.sched _).sched _).cpuExecute _).soundExecute _).lineCounterStep).sched _).sched _).cpuExecute _).sched
    _).renderIfOn y).call _

theorem IdleWith.vblankEntryLine (y : Nat) : IdleWith v (s.vblankEntryLine y) :=
  (((((((((h.sched _).sched _).sched _).cpuExecute _).soundExecute _).sched _).frameInterrupt).sched _).cpuExecute _).call _

theorem IdleWith.vblankLine (y : Nat) : IdleWith v (s.vblankLine y) :=
  ((((h.sched _).sched _).cpuExecute _).soundExecute _).call _

end IdleWith

theorem idleWith_foldl {v : VdpState} {f : State → Nat → State} (hf : ∀ {s}, IdleWith v s → ∀ y, IdleWith v (f s y))
    (l : List Nat) {s : State} (h : IdleWith v s) : IdleWith v (l.foldl f s) := by
  induction l generalizing s with
  | nil => exact h
  | cons y l ih => exact ih (hf h y)

/-- R446: a frame in which the CPUs issue nothing leaves the whole VDP as it was. -/
theorem runFrame_vdp_of_idle {s : State} (h : s.CpusIdle) : s.runFrame.vdp = s.vdp := by
  have hstart : IdleWith s.vdp s.frameStart := ⟨rfl, h⟩
  have hvisible := idleWith_foldl IdleWith.visibleLine (List.range s.vdp.height) hstart
  have hblank := idleWith_foldl IdleWith.vblankLine
    (List.range' (s.vdp.height + 1) (totalLines s.cfg.region - (s.vdp.height + 1)))
    (hvisible.vblankEntryLine s.vdp.height)
  exact (hblank.sched _).1

/-! ### The rows -/

/-- The outcome is a next state with the fill flag `b`. -/
def AnswersFill (b : Bool) (o : Host.Outcome State Fault Refusal) : Prop := ∃ t, o = .next t ∧ t.vdp.fillPending = b

theorem answersFill_answer {b : Bool} {t : State} (h : t.vdp.fillPending = b) (r : Reply) : AnswersFill b (answer t r) :=
  ⟨_, rfl, h⟩

theorem answersFill_finish {b : Bool} {t : State} (h : t.vdp.fillPending = b) : AnswersFill b (finish t) := ⟨_, rfl, h⟩

theorem renderVisible_vdp (s : State) (y : Nat) : (s.renderVisible y).vdp = s.vdp := by
  unfold State.renderVisible
  split
  exacts [renderIfOn_vdp s y, rfl]

section Armed

variable {s : State} (hfill : s.vdp.fillPending = true)

include hfill

theorem portAccess_read_armed (off : BitVec 5) : AnswersFill true (s.portAccess off .read) :=
  answersFill_answer ((vdpRead16_fillPending s off).trans hfill) _

theorem portAccess_write_armed {off : BitVec 5} (h : 4 ≤ off.toNat) (v : Word) :
    AnswersFill true (s.portAccess off (.write v)) :=
  answersFill_finish (vdpWrite16_armed hfill h v)

theorem regionAccess_armed {r : Region} (h : r ≠ .vdp) (a : Addr) (acc : Access 8) :
    AnswersFill true (s.regionAccess r a acc) := by
  cases acc with
  | read => exact answersFill_answer ((rd8_fillPending s r a).trans hfill) _
  | write b => exact answersFill_finish ((congrArg VdpState.fillPending (wr8_vdp_of_ne s h a b)).trans hfill)

end Armed

/-- Settles O48: each row by what it does to the fill flag; a write clears it exactly if it reaches the data port. -/
theorem armedFillSurvives : Obligations.ArmedFillSurvives := by
  intro s hfill keeps clears
  have hread (off : BitVec 5) := portAccess_read_armed hfill off
  refine ⟨?commands, ?reads, ?portWrites, ?regions, ?vdpRegion, ?transactions, ?frame, ?reset, ?load⟩
  case commands =>
    intro v b x r c a z d e f
    simp only [List.forall_mem_cons]
    refine ⟨⟨?regwrite, ?cmd1, ?cmd2, ?cpuCopy, ?vramCopy, ?arm, ?disabled, ?render, List.forall_mem_nil _⟩,
      ?vram, ?cram, ?vsram, ?notarget, ?readcode, ?fire, List.forall_mem_nil _⟩
    case regwrite => exact answersFill_finish ((regWrite_fillPending s r b).trans hfill)
    case cmd1 | disabled => exact answersFill_finish hfill
    case cmd2 => exact answersFill_finish (cmdWord2_armed hfill d f)
    case cpuCopy => exact answersFill_finish ((dma68k_fillPending s).trans hfill)
    case vramCopy => exact answersFill_finish ((dmaCopy_fillPending s.vdp).trans hfill)
    case arm => exact answersFill_finish (fillArm_fillPending s.vdp)
    case render => exact answersFill_finish ((congrArg VdpState.fillPending (renderVisible_vdp s b.toNat)).trans hfill)
    case vram => exact answersFill_finish (disarmed_writeVram s.vdp v).1
    case cram => exact answersFill_finish (disarmed_writeCram s.vdp v).1
    case vsram => exact answersFill_finish (disarmed_writeVsram s.vdp v).1
    case notarget => exact answersFill_finish (disarmed_writeNotarget s.vdp v).1
    case readcode => exact answersFill_finish (disarmed_writeReadcode s.vdp v).1
    case fire => exact answersFill_finish (fireFill_fillPending s.vdp v)
  case reads =>
    intro off
    simp only [List.forall_mem_cons]
    refine ⟨?vram, ?vsram, ?cram, ?vram8, ?invalid, ?status, ?hv, ?psg, ?unused, hread off, hread off, hread off, hread off,
      hread off, ?byte, ?long, List.forall_mem_nil _⟩
    case vram | vsram | cram | vram8 => exact answersFill_answer (t := { s with vdp := s.vdp.afterRead }) hfill _
    case invalid => exact answersFill_answer (t := s.readInvalid.2) hfill _
    case status => exact answersFill_answer (t := s.statusRead.2) hfill _
    case psg | unused => exact answersFill_answer hfill _
    case hv => exact answersFill_answer ((hvRead_fillPending s).trans hfill) _
    case byte => exact answersFill_answer ((vdpRead8_fillPending s off).trans hfill) _
    case long => exact answersFill_answer ((vdpRead32_fillPending s off).trans hfill) _
  case portWrites =>
    intro off v b l
    simp only [List.forall_mem_cons]
    refine ⟨⟨?hv, ?psg, ?unused, List.forall_mem_nil _⟩, fun hle => ?elsewhere, fun hle hlt => ?long, fun hlt => ?data⟩
    case hv | psg | unused => exact answersFill_finish hfill
    case elsewhere =>
      have hwrite := portAccess_write_armed hfill hle v
      exact ⟨hwrite, hwrite, hwrite, hwrite, answersFill_finish (vdpWrite8_armed hfill hle b), List.forall_mem_nil _⟩
    case long => exact answersFill_finish (vdpWrite32_armed hfill hle hlt l)
    case data =>
      exact ⟨answersFill_finish (vdpWrite16_data s hlt v).1, answersFill_finish (vdpWrite8_data s hlt b).1,
        answersFill_finish (vdpWrite32_data s hlt l)⟩
  case regions =>
    intro a acc
    simp only [List.forall_mem_cons]
    have hregion {r : Region} (h : r ≠ .vdp) := regionAccess_armed hfill h a acc
    refine ⟨hregion ?_, hregion ?_, hregion ?_, hregion ?_, hregion ?_, hregion ?_, hregion ?_, hregion ?_, hregion ?_,
      hregion ?_, hregion ?_, hregion ?_, hregion ?_, hregion ?_, hregion ?_, ?vdp, ?source, List.forall_mem_nil _⟩
    case vdp => exact answersFill_answer ((rd8_fillPending s .vdp a).trans hfill) _
    case source => exact answersFill_answer ((congrArg VdpState.fillPending (dmaSourceRead16_vdp s a)).trans hfill) _
    all_goals exact nofun
  case vdpRegion =>
    intro a b
    split
    · exact answersFill_finish (wr8_data ‹_› b).1
    · exact answersFill_finish (wr8_armed hfill ‹_› b)
  case transactions =>
    intro a z v b l dataPort first bank soundData
    simp only [List.forall_mem_cons]
    refine ⟨⟨?read8, ?read16, ?read32, ?sread8, List.forall_mem_nil _⟩, fun h => ?data, fun h => ?elsewhere,
      fun h => ?second, fun h hsecond => ?long, fun h => ?soundData, fun h => ?soundElsewhere⟩
    case read8 => exact answersFill_answer ((busRead8_fillPending s first).trans hfill) _
    case read16 => exact answersFill_answer ((busRead16_fillPending s first).trans hfill) _
    case read32 => exact answersFill_answer ((busRead32_fillPending s first).trans hfill) _
    case sread8 => exact answersFill_answer ((soundRead8_fillPending s z).trans hfill) _
    case data =>
      exact ⟨answersFill_finish (busWrite8_data h b).1, answersFill_finish (busWrite16_data h v).1,
        answersFill_finish (busWrite32_data h l), List.forall_mem_nil _⟩
    case elsewhere =>
      exact ⟨answersFill_finish (busWrite8_armed hfill h b), answersFill_finish (busWrite16_armed hfill h v),
        List.forall_mem_nil _⟩
    case second => exact answersFill_finish (busWrite32_data_second h l)
    case long => exact answersFill_finish (busWrite32_armed hfill h hsecond l)
    case soundData => exact answersFill_finish (soundWrite8_data h b)
    case soundElsewhere => exact answersFill_finish (soundWrite8_armed hfill h b)
  case frame =>
    exact fun hidle => answersFill_finish ((congrArg VdpState.fillPending (runFrame_vdp_of_idle hidle)).trans hfill)
  case reset => exact answersFill_finish (t := s.resetBlock) rfl
  case load =>
    intro blob
    by_cases hsize : blob.length ≤ 0x400000
    · have hload : exec (.loadCartridge blob) s = answer (s.loadBlob blob) .loaded := if_neg (Nat.not_lt.mpr hsize)
      rw [if_pos hsize]
      exact ⟨_, hload, rfl⟩
    · have hload : exec (.loadCartridge blob) s = answer s .tooLarge := if_pos (Nat.lt_of_not_le hsize)
      rw [if_neg hsize]
      exact ⟨_, hload, hfill⟩

end Sys2Proof.Proofs
end

section
/-! PROOFS. The statements of 43_compositor.md on a line as a whole: what a render writes (O49, O50), where the window is (O52)
and which sprites are queued (O53). -/

namespace Sys2Proof.Proofs

open Sys2Proof.Machine Sys2Proof.Laws

/-! ### Rendering a line -/

theorem exec_renderLine (y : Byte) (s : State) : exec (.renderLine y) s = finish (s.renderVisible y.toNat) := rfl

theorem height_le (v : VdpState) : v.height ≤ 240 := by
  unfold VdpState.height
  split <;> decide

/-- R360, R377: a pixel of a rendered row. -/
theorem getElem_renderRow (v : VdpState) (c : Config.Params) (y : Nat) (old : Vector Long 320) {x : Nat} (hx : x < 320) :
    (v.renderRow c y old)[x] = if x < v.width then packColor c (v.buf x y) else old[x] := by
  unfold VdpState.renderRow
  rw [Vector.getElem_ofFn]
  rfl

/-- R378: a row's old pixels show through past the width only, and there a render leaves them. -/
theorem renderRow_renderRow (v : VdpState) (c : Config.Params) (y : Nat) (old : Vector Long 320) :
    v.renderRow c y (v.renderRow c y old) = v.renderRow c y old := by
  ext x hx
  simp only [getElem_renderRow]
  split <;> rfl

/-- A rendered line, as one update. -/
theorem renderLine_eq (s : State) {y : Nat} (hy : y < 240) :
    s.renderLine y = { s with fb := s.fb.set y (s.vdp.renderRow s.cfg y s.fb[y]) } := dif_pos hy

theorem renderLine_replied (s : State) (y : Nat) (r : Reply) :
    (s.replied r).renderLine y = (s.renderLine y).replied r := by
  unfold State.renderLine
  split <;> rfl

theorem renderLine_renderLine (s : State) {y : Nat} (hy : y < 240) : (s.renderLine y).renderLine y = s.renderLine y := by
  simp only [renderLine_eq _ hy, Vector.getElem_set_self, renderRow_renderRow, Vector.set_set]

/-- All a requested line can do to the framebuffer (R379). -/
theorem renderVisible_fb (s : State) (y i : Nat) (hi : i < 240) : (s.renderVisible y).fb[i] =
    if i = y ∧ y < s.vdp.height ∧ s.vdp.displayOn = true then s.vdp.renderRow s.cfg y s.fb[i] else s.fb[i] := by
  unfold State.renderVisible
  by_cases hy : y < s.vdp.height
  · simp only [hy, if_true, true_and, renderIfOn_fb s y i hi]
  · simp only [hy, if_false, false_and, and_false]

/-- A requested line writes the framebuffer only. -/
theorem renderVisible_frame (s : State) (y : Nat) : s.renderVisible y = { s with fb := (s.renderVisible y).fb } := by
  rw [renderVisible_eq]
  unfold State.renderLine
  split
  · split <;> rfl
  · rfl

/-- Settles O49: the gate is R379's, the row R360's and R377's. -/
theorem renderLineWritesItsRow : Obligations.RenderLineWritesItsRow := by
  intro s y rendered
  have hgate : rendered = true ↔ y.toNat < s.vdp.height ∧ s.vdp.displayOn = true := by
    rw [Bool.and_eq_true, decide_eq_true_iff, and_comm]
    rfl
  rw [exec_renderLine]
  refine ⟨fun h => ⟨_, rfl, ?frame, fun j x => ?pixel⟩, fun h => ?hidden⟩
  case frame => exact congrArg (State.replied · .done) (renderVisible_frame s y.toNat)
  case pixel =>
    rw [replied_fb, Fin.getElem_fin, Fin.getElem_fin, renderVisible_fb s y.toNat j.val j.isLt]
    by_cases hj : j.val = y.toNat
    · rw [if_pos ⟨hj, hgate.mp h⟩, getElem_renderRow, ← hj]
      simp only [true_and]
      rfl
    · rw [if_neg fun k => hj k.1, if_neg fun k => hj k.1]
      rfl
  case hidden =>
    rw [renderVisible_eq, if_neg fun k => by simp [hgate.mpr k] at h]
    rfl

/-- Settles O50: neither the gate nor the row's new pixels read what the first render wrote. -/
theorem renderIdempotent : Obligations.RenderIdempotent := by
  intro s t y h
  rw [exec_renderLine] at h
  obtain rfl : (s.renderVisible y.toNat).replied .done = t := Host.Outcome.next.inj h
  rw [exec_renderLine, finish, answer, renderVisible_eq, replied_vdp, renderVisible_vdp, renderVisible_eq]
  split
  case isTrue hshown =>
    have hy : y.toNat < 240 := hshown.1.trans_le (height_le s.vdp)
    rw [renderLine_replied, renderLine_renderLine s hy]
    rfl
  case isFalse => rfl

/-! ### The window -/

theorem toNat_extractLsb'_zero {n : Nat} (b : BitVec n) (m : Nat) : (b.extractLsb' 0 m).toNat = b.toNat % 2 ^ m := by
  rw [BitVec.extractLsb'_toNat, Nat.shiftRight_zero]

/-- R371: the vertical band, or the horizontal one. -/
theorem inWindow_iff (v : VdpState) (x y : Nat) : v.inWindow x y = true ↔
    (if (v.r 18).getLsbD 7 then 8 * ((v.r 18).toNat % 32) ≤ y else y < 8 * ((v.r 18).toNat % 32)) ∨
      (if (v.r 17).getLsbD 7 then 16 * ((v.r 17).toNat % 32) ≤ x else x < 16 * ((v.r 17).toNat % 32)) := by
  unfold VdpState.inWindow VdpState.windowDown VdpState.windowRight VdpState.windowV VdpState.windowH
  rw [toNat_extractLsb'_zero, toNat_extractLsb'_zero, Bool.or_eq_true]
  apply or_congr <;> split <;> exact decide_eq_true_iff

/-- Settles O52: R370 is the guard of the two layers; the rest reads off R371's two bands. -/
theorem windowReplacesPlaneA : Obligations.WindowReplacesPlaneA := by
  intro v p x y
  refine ⟨fun h => if_pos ⟨rfl, h⟩, fun h => if_neg (by simp [h]), fun h17 h18 => ?none, fun hup hy => ?above,
    fun hdown hy => ?below, fun hband => ?split⟩
  case none => simp [← Bool.not_eq_true, inWindow_iff, h17, h18]
  case above => exact (inWindow_iff v x y).mpr (.inl (by rwa [hup]))
  case below => exact (inWindow_iff v x y).mpr (.inl (by rwa [hdown]))
  case split =>
    have hout : ¬if (v.r 18).getLsbD 7 then 8 * ((v.r 18).toNat % 32) ≤ y else y < 8 * ((v.r 18).toNat % 32) := by
      obtain ⟨hup, hy⟩ | ⟨hdown, hy⟩ := hband
      · rw [hup]
        exact Nat.not_lt.mpr hy
      · rw [hdown]
        exact Nat.not_le.mpr hy
    rw [inWindow_iff, or_iff_right hout]

/-! ### The sprite list -/

theorem toNat_and_mask9 (w : Word) : (w &&& 0x1FF).toNat = w.toNat % 512 := Nat.and_two_pow_sub_one_eq_mod w.toNat 9

theorem toNat_append_byte (h l : Byte) : (h ++ l).toNat = 256 * h.toNat + l.toNat := by
  rw [toNat_append_eq_add, Nat.mul_comm]
  rfl

theorem spriteLink_eq (v : VdpState) (n : Nat) : v.spriteLink n = (v.satCache.read (8 * n + 3)).toNat % 128 :=
  toNat_extractLsb'_zero _ 7

theorem spriteY_eq (v : VdpState) (n : Nat) :
    v.spriteY n = (256 * (v.satCache.read (8 * n)).toNat + (v.satCache.read (8 * n + 1)).toNat) % 512 := by
  unfold VdpState.spriteY mkWord
  rw [toNat_and_mask9, toNat_append_byte]

theorem spriteH_eq (v : VdpState) (n : Nat) : v.spriteH n = (v.spriteSize n).toNat % 4 + 1 :=
  congrArg (· + 1) (toNat_extractLsb'_zero _ 2)

theorem spriteOnLine_iff (v : VdpState) (n y : Nat) : v.spriteOnLine n y = true ↔
    (v.spriteY n : Int) - 128 ≤ y ∧ (y : Int) < (v.spriteY n : Int) - 128 + 8 * ((v.spriteSize n).toNat % 4 + 1) := by
  unfold VdpState.spriteOnLine
  rw [Bool.and_eq_true, decide_eq_true_iff, decide_eq_true_iff, spriteH_eq]
  norm_cast

/-- R373's loop from any entry: it stops at the first zero link or when its visits are used up. -/
theorem spriteQueueFrom_eq (v : VdpState) (y visits n : Nat) :
    ∃ m, 1 ≤ m ∧ m ≤ visits + 1 ∧ (∀ k, k + 1 < m → v.spriteLink (v.spriteLink^[k] n) ≠ 0) ∧
      (m < visits + 1 → v.spriteLink (v.spriteLink^[m - 1] n) = 0) ∧
      v.spriteQueueFrom y (visits + 1) n =
        ((List.range m).map fun k => v.spriteLink^[k] n).filter (fun i => v.spriteOnLine i y) := by
  induction visits generalizing n with
  | zero =>
    refine ⟨1, le_refl 1, le_refl 1, fun k hk => by omega, fun h => by omega, ?_⟩
    simp [VdpState.spriteQueueFrom, List.filter_cons]
  | succ visits ih =>
    rw [VdpState.spriteQueueFrom]
    by_cases hlink : v.spriteLink n = 0
    · refine ⟨1, le_refl 1, by omega, fun k hk => by omega, fun _ => hlink, ?_⟩
      simp [hlink, List.filter_cons]
    · obtain ⟨m, hpos, hle, hlinks, hend, hqueue⟩ := ih (v.spriteLink n)
      refine ⟨m + 1, by omega, by omega, fun k hk => ?links, fun hm => ?last, ?queue⟩
      case links =>
        cases k with
        | zero => exact hlink
        | succ k => exact hlinks k (by omega)
      case last =>
        obtain ⟨k, rfl⟩ : ∃ k, m = k + 1 := ⟨m - 1, by omega⟩
        exact hend (by omega)
      case queue =>
        have hmap : ((List.range (m + 1)).map fun k => v.spriteLink^[k] n) =
            n :: (List.range m).map fun k => v.spriteLink^[k] (v.spriteLink n) := by
          rw [List.range_succ_eq_map, List.map_cons, List.map_map]
          rfl
        rw [hmap, if_neg hlink, hqueue, List.filter_cons]
        split <;> rfl

/-- An entry the traversal visits has a 7-bit number. -/
theorem spriteVisit_lt (v : VdpState) (k : Nat) : v.spriteLink^[k] 0 < 128 := by
  cases k with
  | zero => exact Nat.zero_lt_succ 127
  | succ k =>
    rw [Function.iterate_succ_apply', spriteLink_eq]
    exact Nat.mod_lt _ (by decide)

/-- Settles O53: the queue is the visited entries filtered (`spriteQueueFrom_eq`), and the rest are facts of that list. -/
theorem spriteTraversalBounded : Obligations.SpriteTraversalBounded := by
  intro v y visit
  obtain ⟨m, hpos, hle, hlinks, hend, hqueue⟩ := spriteQueueFrom_eq v y 79 0
  change v.spriteQueue y = ((List.range m).map visit).filter (fun n => v.spriteOnLine n y) at hqueue
  refine ⟨fun n => ⟨spriteLink_eq v n, spriteY_eq v n, spriteOnLine_iff v n y⟩, ⟨m, hpos, hle, hlinks, hend, hqueue⟩,
    ?length, fun n hn => ?entry, fun hfirst => ?head, fun hlink => ?single⟩
  case length =>
    calc (v.spriteQueue y).length
      _ ≤ ((List.range m).map visit).length := by rw [hqueue]; exact List.length_filter_le _ _
      _ ≤ 80 := by simpa using hle
  case entry =>
    rw [hqueue, List.mem_filter, List.mem_map] at hn
    obtain ⟨⟨k, -, rfl⟩, honLine⟩ := hn
    exact ⟨spriteVisit_lt v k, (spriteOnLine_iff v _ y).mp honLine⟩
  case head => simp [VdpState.spriteQueue, VdpState.spriteQueueFrom, hfirst]
  case single => simp [VdpState.spriteQueue, VdpState.spriteQueueFrom, hlink]

end Sys2Proof.Proofs
end

section
/-! PROOFS. The statements of 43_compositor.md on what the planes and the layers show: scrolling (O54) and the layers of a
pixel (O51). -/

namespace Sys2Proof.Proofs

open Sys2Proof.Machine Sys2Proof.Laws

/-! ### Words of VRAM and register fields, in numbers -/

/-- R105, D67: the aligned word of VRAM that contains an address, taken mod 0x10000. -/
def wordAt (v : VdpState) (a : Nat) : Word :=
  v.vram.read (a % 0x10000 / 2 * 2) ++ v.vram.read (a % 0x10000 / 2 * 2 + 1)

theorem toNat_and_evenMask (x : Word) : (x &&& 0xFFFE).toNat = x.toNat / 2 * 2 := by
  have h : x &&& (0xFFFE : Word) = x >>> 1 <<< 1 := by
    ext i hi
    interval_cases i <;> simp
  rw [h, BitVec.toNat_shiftLeft, BitVec.toNat_ushiftRight, Nat.shiftRight_eq_div_pow, Nat.shiftLeft_eq]
  omega

/-- The second byte of an aligned word is at the next address. -/
theorem toNat_evenMask_or_one (x : Word) : ((x &&& 0xFFFE) ||| 1).toNat = x.toNat / 2 * 2 + 1 := by
  have hdisjoint : (x &&& 0xFFFE) &&& 1 = 0 := by
    rw [BitVec.and_assoc]
    exact BitVec.and_zero
  rw [← BitVec.add_eq_or_of_and_eq_zero _ _ hdisjoint, BitVec.toNat_add, toNat_and_evenMask]
  have := x.isLt
  show (x.toNat / 2 * 2 + 1) % 65536 = _
  omega

/-- R105: the word at an offset from a base. -/
theorem vramReadWord_add (v : VdpState) (base : Word) (n : Nat) :
    v.vramReadWord (base + BitVec.ofNat 16 n) = wordAt v (base.toNat + n) := by
  unfold VdpState.vramReadWord VdpState.vramRead mkWord wordAt
  rw [toNat_evenMask_or_one, toNat_and_evenMask, BitVec.toNat_add, BitVec.toNat_ofNat, Nat.add_mod_mod]

theorem toNat_wordAt {v : VdpState} {a : Nat} (h : a % 2 = 0) : (wordAt v a).toNat =
    256 * (v.vram.read (a % 0x10000)).toNat + (v.vram.read (a % 0x10000 + 1)).toNat := by
  have heven : a % 0x10000 / 2 * 2 = a % 0x10000 := by omega
  unfold wordAt
  rw [toNat_append_byte, heven]

theorem toNat_and_mask10 (w : Word) : (w &&& 0x3FF).toNat = w.toNat % 1024 := Nat.and_two_pow_sub_one_eq_mod w.toNat 10

/-! R42-R44, R52: the table bases. -/

theorem toNat_baseA (v : VdpState) : v.baseA.toNat = (v.r 2).toNat / 8 % 8 * 8192 := by
  have h : ∀ b : Byte, ((b.setWidth 16 &&& 0x38#16) <<< 10).toNat = b.toNat / 8 % 8 * 8192 := by decide
  exact h (v.r 2)

theorem toNat_baseB (v : VdpState) : v.baseB.toNat = (v.r 4).toNat % 8 * 8192 := by
  have h : ∀ b : Byte, ((b.setWidth 16 &&& 0x07#16) <<< 13).toNat = b.toNat % 8 * 8192 := by decide
  exact h (v.r 4)

theorem toNat_baseW (v : VdpState) : v.baseW.toNat =
    if v.h40 then (v.r 3).toNat / 4 % 16 * 4096 else (v.r 3).toNat / 2 % 32 * 2048 := by
  have h40 : ∀ b : Byte, ((b.setWidth 16 &&& 0x3C#16) <<< 10).toNat = b.toNat / 4 % 16 * 4096 := by decide
  have h32 : ∀ b : Byte, ((b.setWidth 16 &&& 0x3E#16) <<< 10).toNat = b.toNat / 2 % 32 * 2048 := by decide
  unfold VdpState.baseW
  rw [← h40, ← h32]
  split <;> rfl

theorem toNat_hsBase (v : VdpState) : v.hsBase.toNat = (v.r 13).toNat % 64 * 1024 := by
  have h : ∀ b : Byte, ((b.setWidth 16 &&& 0x3F#16) <<< 10).toNat = b.toNat % 64 * 1024 := by decide
  exact h (v.r 13)

/-! ### Scrolling -/

/-- R364: the cells a size field of register 16 stands for. -/
def sizeCells (d : Nat) : Nat := if d % 4 = 1 then 64 else if d % 4 = 3 then 128 else 32

theorem planeW_eq (v : VdpState) : v.planeW = sizeCells (v.r 16).toNat := by
  have h : ∀ b : Byte, planeCells (b.extractLsb' 0 2) = sizeCells b.toNat := by decide
  exact h (v.r 16)

theorem planeH_eq (v : VdpState) : v.planeH = sizeCells ((v.r 16).toNat / 16) := by
  have h : ∀ b : Byte, planeCells (b.extractLsb' 4 2) = sizeCells (b.toNat / 16) := by decide
  exact h (v.r 16)

/-- A plane's size in pixels divides the range of a scroll value, so bits 9:0 taken mod the size are two's complement. -/
theorem sizeCells_dvd (d : Nat) : 8 * sizeCells d ∣ 2 ^ 10 := by
  unfold sizeCells
  split
  · decide
  · split <;> decide

theorem toInt_ofNat_modEq {m : Nat} (h : m ∣ 2 ^ 10) (n : Nat) : (BitVec.ofNat 10 n).toInt ≡ n [ZMOD m] := by
  rw [BitVec.toInt_ofNat']
  exact Int.ModEq.of_dvd (Int.natCast_dvd_natCast.mpr h) (Int.bmod_emod ..)

/-- R365: the row of the scroll table a mode reads on a line. -/
def scrollRow (mode y : Nat) : Nat :=
  match mode with
  | 0 => 0
  | 1 => y % 8
  | 2 => y / 8 * 8
  | _ => y

/-- The plane's place in a pair of scroll values, A before B. -/
def planeIndex (p : Plane) : Nat := if p = .a then 0 else 1

theorem scrollRow_eq (mode : BitVec 2) (y : Nat) : scrollRow mode.toNat y =
    if mode == 0 then 0 else if mode == 1 then y % 8 else if mode == 2 then y / 8 * 8 else y := by
  match mode with
  | 0 | 1 | 2 | 3 => rfl

theorem hScroll_eq (v : VdpState) (p : Plane) (y : Nat) : v.hScroll p y =
    (wordAt v ((v.r 13).toNat % 64 * 1024 + (4 * scrollRow ((v.r 11).toNat % 4) y + 2 * planeIndex p))).toNat % 1024 := by
  have hmode : v.hscrollMode.toNat = (v.r 11).toNat % 4 := toNat_extractLsb'_zero _ 2
  have hread : v.hScroll p y = (v.vramReadWord (v.hsBase +
      BitVec.ofNat 16 (4 * scrollRow v.hscrollMode.toNat y + 2 * planeIndex p)) &&& 0x3FF).toNat := by
    rw [scrollRow_eq]
    cases p <;> rfl
  rw [hread, toNat_and_mask10, vramReadWord_add, toNat_hsBase, hmode]

theorem toNat_vScrollEntry (v : VdpState) (p : Plane) (x : Nat) : (v.vScrollEntry p x).toNat =
    (if (v.r 11).getLsbD 2 then 2 * (x / 16) + planeIndex p else planeIndex p) % 64 := by
  have hentry : v.vScrollEntry p x = if (v.r 11).getLsbD 2 then BitVec.ofNat 6 (2 * (x / 16) + planeIndex p)
      else BitVec.ofNat 6 (planeIndex p) := by cases p <;> rfl
  rw [hentry]
  split <;> exact BitVec.toNat_ofNat ..

theorem vScroll_eq (v : VdpState) (p : Plane) (x : Nat) (i : Fin 64) (h : i.val = (v.vScrollEntry p x).toNat) :
    v.vScroll p x = v.vsram[i].toNat % 1024 := by
  obtain rfl : i = ⟨_, (v.vScrollEntry p x).isLt⟩ := Fin.ext h
  exact toNat_and_mask10 _

/-- R367: a positive horizontal scroll moves the plane right. -/
theorem planeX_eq (v : VdpState) (p : Plane) (x y : Nat) : (v.planeX p x y : Int) =
    ((x : Int) - (BitVec.ofNat 10 (v.hScroll p y)).toInt) % (8 * v.planeW : Nat) := by
  have hdvd : 8 * v.planeW ∣ 2 ^ 10 := planeW_eq v ▸ sizeCells_dvd _
  have hpos : ((8 * v.planeW : Nat) : Int) ≠ 0 := by
    exact_mod_cast (Nat.pos_of_dvd_of_pos hdvd (by decide)).ne'
  unfold VdpState.planeX
  rw [Nat.mul_comm, Int.toNat_of_nonneg (Int.emod_nonneg _ hpos)]
  exact (Int.ModEq.sub_left _ (toInt_ofNat_modEq hdvd _)).symm

/-- R367: a positive vertical scroll moves it up. -/
theorem planeY_eq (v : VdpState) (p : Plane) (x y : Nat) : (v.planeY p x y : Int) =
    ((y : Int) + (BitVec.ofNat 10 (v.vScroll p x)).toInt) % (8 * v.planeH : Nat) := by
  have hdvd : 8 * v.planeH ∣ 2 ^ 10 := planeH_eq v ▸ sizeCells_dvd _
  unfold VdpState.planeY
  rw [Nat.mul_comm, Int.natCast_emod, Int.natCast_add]
  exact (Int.ModEq.add_left _ (toInt_ofNat_modEq hdvd _)).symm

/-- Settles O54: each clause is its accessor's own lemma; the table's words are aligned. -/
theorem scrollIsTwosComplement : Obligations.ScrollIsTwosComplement := by
  intro v p x y cells b row at_ entry
  refine ⟨planeW_eq v, planeH_eq v, ?_, fun i hi => vScroll_eq v p x i (hi.trans (toNat_vScrollEntry v p x).symm),
    planeX_eq v p x y, planeY_eq v p x y⟩
  rw [hScroll_eq, toNat_wordAt (by omega), ← Nat.add_assoc]
  rfl

/-! ### The dot of a cell -/

/-- R369: a colour of CRAM, by its index. -/
def colourAt (v : VdpState) (i : Nat) : Word := v.cram[(⟨i % 64, Nat.mod_lt _ (by decide)⟩ : Fin 64)] &&& 0x0EEE

/-- R157, R368: a dot of a tile. -/
def dotAt (v : VdpState) (tile row col : Nat) : Nat :=
  (v.vram.read ((32 * tile + 4 * row + col / 2) % 0x10000)).toNat / (if col % 2 = 0 then 16 else 1) % 16

/-- R362: what an entry's dot gives in a tier. -/
def paintAt (v : VdpState) (e : Word) (p : Bool) (d : Nat) : Option Word :=
  if e.getLsbD 15 = p ∧ d ≠ 0 then some (colourAt v (e.toNat / 8192 % 4 * 16 + d)) else none

/-- R368: what a nametable entry gives in a tier, at a dot of its cell. -/
def cellAt (v : VdpState) (e : Word) (p : Bool) (fx fy : Nat) : Option Word :=
  paintAt v e p (dotAt v (e.toNat % 2048) (if e.getLsbD 12 then 7 - fy else fy) (if e.getLsbD 11 then 7 - fx else fx))

theorem cramAt_masked (v : VdpState) (i : BitVec 6) : v.cramAt i &&& 0x0EEE = colourAt v i.toNat := by
  have hi : i.toNat % 64 = i.toNat := Nat.mod_eq_of_lt i.isLt
  unfold VdpState.cramAt colourAt
  simp only [Fin.getElem_fin, hi]

theorem backdropColour_eq (v : VdpState) : v.backdropColour = colourAt v (v.r 7).toNat := by
  have hindex : v.backdrop.toNat = (v.r 7).toNat % 64 := toNat_extractLsb'_zero _ 6
  unfold VdpState.backdropColour
  rw [cramAt_masked, hindex]
  simp only [colourAt, Nat.mod_mod]

theorem toNat_tileNibble (v : VdpState) (t r c : Nat) : (v.tileNibble t r c).toNat = dotAt v t r c := by
  unfold VdpState.tileNibble dotAt
  dsimp only
  split <;> rw [BitVec.extractLsb'_toNat, Nat.shiftRight_eq_div_pow]

theorem pixelColour_eq (v : VdpState) (e : Word) (p : Bool) (d : BitVec 4) : v.pixelColour e p d = paintAt v e p d.toNat := by
  have hpalette : (cellPalette e).toNat = e.toNat / 8192 % 4 := by
    rw [cellPalette, BitVec.extractLsb'_toNat, Nat.shiftRight_eq_div_pow]
  have hcolour : v.colour (cellPalette e) d = colourAt v (e.toNat / 8192 % 4 * 16 + d.toNat) := by
    rw [VdpState.colour, cramAt_masked, toNat_append_eq_add, hpalette]
    rfl
  have hclear : d ≠ 0 ↔ d.toNat ≠ 0 := not_congr BitVec.toNat_inj.symm
  unfold VdpState.pixelColour paintAt
  simp only [hcolour, hclear, cellPriority]

theorem cellTile_eq (e : Word) : cellTile e = e.toNat % 2048 := toNat_extractLsb'_zero _ 11

theorem pixelColour_tilePixel (v : VdpState) (e : Word) (p : Bool) (fx fy : Nat) :
    v.pixelColour e p (v.tilePixel e fx fy) = cellAt v e p fx fy := by
  rw [pixelColour_eq, VdpState.tilePixel, toNat_tileNibble, cellTile_eq]
  rfl

/-! ### What each layer has for a pixel -/

/-- R367: what a plane with its nametable at `base` shows, where it draws. -/
def onPlaneAt (v : VdpState) (q : Plane) (x y base : Nat) (p : Bool) : Option Word :=
  cellAt v (wordAt v (base + 2 * (v.planeY q x y / 8 * v.planeW + v.planeX q x y / 8))) p (v.planeX q x y % 8)
    (v.planeY q x y % 8)

theorem planePixel_eq (v : VdpState) (q : Plane) (p : Bool) (x y : Nat) : v.planePixel q p x y =
    if q = .a ∧ v.inWindow x y = true then none else onPlaneAt v q x y (v.planeBase q).toNat p := by
  unfold VdpState.planePixel VdpState.planeEntry onPlaneAt
  rw [pixelColour_tilePixel, vramReadWord_add]

theorem planePixel_a (v : VdpState) (p : Bool) (x y : Nat) : v.planePixel .a p x y =
    if v.inWindow x y then none else onPlaneAt v .a x y ((v.r 2).toNat / 8 % 8 * 8192) p := by
  rw [planePixel_eq, VdpState.planeBase, toNat_baseA]
  simp only [true_and]

theorem planePixel_b (v : VdpState) (p : Bool) (x y : Nat) :
    v.planePixel .b p x y = onPlaneAt v .b x y ((v.r 4).toNat % 8 * 8192) p := by
  rw [planePixel_eq, VdpState.planeBase, toNat_baseB]
  exact if_neg nofun

theorem windowPixel_eq (v : VdpState) (p : Bool) (x y : Nat) : v.windowPixel p x y =
    if v.inWindow x y then
      if (v.r 12).getLsbD 0 then
        cellAt v (wordAt v ((v.r 3).toNat / 4 % 16 * 4096 + 2 * (y / 8 * 64 + x / 8))) p (x % 8) (y % 8)
      else cellAt v (wordAt v ((v.r 3).toNat / 2 % 32 * 2048 + 2 * (y / 8 * 32 + x / 8))) p (x % 8) (y % 8)
    else none := by
  unfold VdpState.windowPixel VdpState.windowEntry
  rw [pixelColour_tilePixel, vramReadWord_add, toNat_baseW, VdpState.h40]
  cases (v.r 12).getLsbD 0 <;> rfl

theorem spriteX_eq (v : VdpState) (n : Nat) : v.spriteX n = (wordAt v (v.satBase.toNat + 8 * n + 6)).toNat % 512 := by
  unfold VdpState.spriteX
  rw [toNat_and_mask9, vramReadWord_add, ← Nat.add_assoc]

theorem spriteAttr_eq (v : VdpState) (n : Nat) : v.spriteAttr n = wordAt v (v.satBase.toNat + 8 * n + 4) := by
  rw [VdpState.spriteAttr, vramReadWord_add, ← Nat.add_assoc]

theorem spriteW_eq (v : VdpState) (n : Nat) : v.spriteW n = (v.spriteSize n).toNat / 4 % 4 + 1 := by
  rw [VdpState.spriteW, BitVec.extractLsb'_toNat, Nat.shiftRight_eq_div_pow]

/-- R376: inside its columns a sprite shows the dot of the cell its flipped column and row are in. -/
theorem spritePixel_inside (v : VdpState) (n : Nat) (p : Bool) {x y col row : Nat}
    (hx : (x : Int) = (v.spriteX n : Int) - 128 + col) (hy : (y : Int) = (v.spriteY n : Int) - 128 + row)
    (hcol : col < 8 * v.spriteW n) :
    v.spritePixel n p x y =
      let c : Nat := if cellHFlip (v.spriteAttr n) then 8 * v.spriteW n - 1 - col else col
      let r : Nat := if cellVFlip (v.spriteAttr n) then 8 * v.spriteH n - 1 - row else row
      paintAt v (v.spriteAttr n) p
        (dotAt v (((v.spriteAttr n).toNat + c / 8 * v.spriteH n + r / 8) % 2048) (r % 8) (c % 8)) := by
  have hc : (x : Int) - ((v.spriteX n : Int) - 128) = col := by omega
  have hr : (y : Int) - ((v.spriteY n : Int) - 128) = row := by omega
  unfold VdpState.spritePixel
  dsimp only
  rw [hc, hr, if_pos ⟨Int.natCast_nonneg col, by exact_mod_cast hcol⟩, pixelColour_eq, toNat_tileNibble, cellTile_eq,
    Nat.add_assoc, Nat.mod_add_mod, ← Nat.add_assoc]
  rfl

theorem spritePixel_outside (v : VdpState) (n : Nat) (p : Bool) {x : Nat} (y : Nat)
    (h : (x : Int) < (v.spriteX n : Int) - 128 ∨ (v.spriteX n : Int) - 128 + 8 * v.spriteW n ≤ x) :
    v.spritePixel n p x y = none := by
  unfold VdpState.spritePixel
  exact if_neg fun k => by omega

/-! ### The layers, from the top -/

/-- The layers of a tier from the top (R360, R375). -/
def tierLayers (v : VdpState) (x y : Nat) (p : Bool) : List (Option Word) :=
  [v.windowPixel p x y] ++ (v.spriteQueue y).map (fun n => v.spritePixel n p x y) ++
    [v.planePixel .a p x y, v.planePixel .b p x y]

/-- R362: layers drawn one over the other show the topmost that has a colour. -/
theorem foldr_cover (layers : List (Option Word)) (below : Word) :
    layers.foldr cover below = (layers.findSome? id).getD below := by
  induction layers with
  | nil => rfl
  | cons layer layers ih => cases layer with
    | none => exact ih
    | some w => rfl

theorem tierOver_eq (v : VdpState) (p : Bool) (x y : Nat) (below : Word) :
    v.tierOver (v.spriteQueue y) p x y below = (tierLayers v x y p).foldr cover below := by
  simp only [tierLayers, List.foldr_append, List.foldr_map, List.foldr_cons, List.foldr_nil]
  rfl

theorem buf_eq (v : VdpState) (x y : Nat) : v.buf x y =
    ((tierLayers v x y true ++ tierLayers v x y false).findSome? id).getD (colourAt v (v.r 7).toNat) := by
  rw [← foldr_cover, List.foldr_append, ← tierOver_eq, ← tierOver_eq, ← backdropColour_eq]
  rfl

/-! ### Only bits 0x0EEE -/

/-- R369: a layer that has a colour has one of bits 0x0EEE. -/
def Masked (layer : Option Word) : Prop := ∀ w, layer = some w → w &&& 0x0EEE = w

theorem colourAt_masked (v : VdpState) (i : Nat) : colourAt v i &&& 0x0EEE = colourAt v i := by
  rw [colourAt, BitVec.and_assoc, BitVec.and_self]

theorem masked_none : Masked none := nofun

theorem masked_pixelColour {v : VdpState} {e : Word} {p : Bool} {d : BitVec 4} : Masked (v.pixelColour e p d) := by
  rw [pixelColour_eq, paintAt]
  split
  · rintro _ ⟨⟩
    exact colourAt_masked v _
  · exact masked_none

theorem masked_planePixel {v : VdpState} {q : Plane} {p : Bool} {x y : Nat} : Masked (v.planePixel q p x y) := by
  unfold VdpState.planePixel
  split
  exacts [masked_none, masked_pixelColour]

theorem masked_windowPixel {v : VdpState} {p : Bool} {x y : Nat} : Masked (v.windowPixel p x y) := by
  unfold VdpState.windowPixel
  split
  exacts [masked_pixelColour, masked_none]

theorem masked_spritePixel {v : VdpState} {n : Nat} {p : Bool} {x y : Nat} : Masked (v.spritePixel n p x y) := by
  unfold VdpState.spritePixel
  dsimp only
  split
  exacts [masked_pixelColour, masked_none]

theorem masked_of_mem_tierLayers {v : VdpState} {x y : Nat} {p : Bool} {layer : Option Word}
    (h : layer ∈ tierLayers v x y p) : Masked layer := by
  simp only [tierLayers, List.mem_append, List.mem_map, List.mem_cons, List.not_mem_nil, or_false] at h
  obtain (rfl | ⟨n, -, rfl⟩) | rfl | rfl := h
  exacts [masked_windowPixel, masked_spritePixel, masked_planePixel, masked_planePixel]

theorem buf_masked (v : VdpState) (x y : Nat) : v.buf x y &&& 0x0EEE = v.buf x y := by
  rw [buf_eq]
  cases h : (tierLayers v x y true ++ tierLayers v x y false).findSome? id with
  | none => exact colourAt_masked v _
  | some w =>
    obtain ⟨layer, hmem, hw⟩ := List.exists_of_findSome?_eq_some h
    exact (List.mem_append.mp hmem).elim masked_of_mem_tierLayers masked_of_mem_tierLayers w hw

/-- Settles O51: the overdraw read from the top (`buf_eq`), and each layer's own equation. -/
theorem pixelIsTopmostLayer : Obligations.PixelIsTopmostLayer := by
  intro v x y
  refine ⟨buf_eq v x y, buf_masked v x y, fun p => ⟨planePixel_a v p x y, planePixel_b v p x y, windowPixel_eq v p x y⟩,
    fun p n _ => ?_⟩
  have hinside := @spritePixel_inside v n p x y
  have houtside := @spritePixel_outside v n p x y
  rw [spriteAttr_eq, spriteX_eq, spriteW_eq, spriteH_eq] at hinside
  rw [spriteX_eq, spriteW_eq] at houtside
  exact ⟨fun col row hx hy hcol => hinside hx hy hcol, houtside⟩

end Sys2Proof.Proofs
end

section
/-! PROOFS. The statements of 44_frame_scheduler.md on the counters and the interrupts: the V counter (O41), the line
interrupt's cadence (O57), and the frame interrupt and what a frame renders (O58). -/

namespace Sys2Proof.Proofs

open Sys2Proof.Machine Sys2Proof.Laws

theorem exec_runFrame (s : State) : exec .runFrame s = .next (s.runFrame.replied .done) := rfl

/-! ### The V counter -/

/-- Settles O41: each region's counter is the line, or its distance from the line of R440's jump, modulo 256. -/
theorem vCounterTable : Obligations.VCounterTable := by
  intro line
  have hlow : ∀ {n : Nat}, (BitVec.ofNat 8 n).toNat = n % 256 := BitVec.toNat_ofNat _ 8
  refine ⟨fun h => ?ntsc, fun h h' => ?ntscJump, fun _ => hlow, fun h => ?pal, fun h h' => ?palJump, fun h => ?pal30,
    fun h h' => ?pal30Jump, fun region v30 => ?last, rfl, fun _ => rfl⟩
  case last => cases region <;> cases v30 <;> decide
  all_goals unfold vCounter; dsimp only
  case ntsc => rw [if_pos h, hlow, Nat.mod_eq_of_lt (by omega)]
  case ntscJump => rw [if_neg (by omega), hlow, Nat.mod_eq_of_lt (by omega)]
  case pal => rw [if_pos h, hlow]
  case palJump => rw [if_neg (by omega), hlow]
  case pal30 => rw [if_pos h, hlow]
  case pal30Jump => rw [if_neg (by omega), hlow]

/-! ### How often an interrupt has been asserted -/

/-- How often level `n` has been asserted. -/
def asserted (n : Nat) (s : State) : Nat := s.env.events.count (.assertInterrupt n)

theorem asserted_of_env (n : Nat) {s t : State} (h : t.env = s.env) : asserted n t = asserted n s := by
  rw [asserted, h]
  rfl

@[simp] theorem asserted_call (n : Nat) (s : State) (e : Event) :
    asserted n (s.call e) = asserted n s + if e = .assertInterrupt n then 1 else 0 := by
  simp only [asserted, call_events, List.count_cons, beq_iff_eq]

@[simp] theorem asserted_setVb (n : Nat) (s : State) (b : Bool) : asserted n (s.setVb b) = asserted n s := rfl
@[simp] theorem asserted_setHb (n : Nat) (s : State) (b : Bool) : asserted n (s.setHb b) = asserted n s := rfl
@[simp] theorem asserted_setF (n : Nat) (s : State) (b : Bool) : asserted n (s.setF b) = asserted n s := rfl
@[simp] theorem asserted_setPhase (n : Nat) (s : State) (p : Phase) : asserted n (s.setPhase p) = asserted n s := rfl
@[simp] theorem asserted_setLine (n : Nat) (s : State) (y : Nat) : asserted n (s.setLine y) = asserted n s := rfl

@[simp] theorem asserted_renderIfOn (n : Nat) (s : State) (y : Nat) : asserted n (s.renderIfOn y) = asserted n s :=
  asserted_of_env n (renderIfOn_events s y)

/-- No transaction asserts an interrupt. -/
theorem asserted_of_budget (n : Nat) {s t : State} (h : BudgetStep s t) : asserted n t = asserted n s := by
  obtain ⟨es, hcalled, hbudget⟩ := h.called
  have hnone : es.count (.assertInterrupt n) = 0 := List.count_eq_zero.mpr fun hm => nomatch hbudget _ hm
  rw [asserted, hcalled, List.count_append, hnone, Nat.zero_add]
  rfl

@[simp] theorem asserted_cpuExecute (n : Nat) (s : State) (m : Nat) : asserted n (s.cpuExecute m) = asserted n s :=
  (asserted_of_budget n (budgetStep_cpuExecute s m)).trans (asserted_call n s _)

@[simp] theorem asserted_soundExecute (n : Nat) (s : State) (m : Nat) : asserted n (s.soundExecute m) = asserted n s :=
  (asserted_of_budget n (budgetStep_soundExecute s m)).trans (asserted_call n s _)

theorem asserted_lineCounterStep (n : Nat) (s : State) : asserted n s.lineCounterStep =
    asserted n s + if n = 4 ∧ s.sched.hintCounter = 0 ∧ s.vdp.hintEnable = true then 1 else 0 := by
  rw [lineCounterStep_eq, asserted]
  dsimp only
  by_cases h : s.sched.hintCounter = 0 ∧ s.vdp.hintEnable = true
  · simp only [h, and_self, and_true, if_true, List.count_cons, beq_iff_eq, Event.assertInterrupt.injEq, eq_comm (a := n)]
    rfl
  · rw [if_neg h, if_neg (fun k => h k.2)]
    rfl

theorem asserted_frameInterrupt (n : Nat) (s : State) : asserted n s.frameInterrupt =
    asserted n s + if n = 6 ∧ s.vdp.vintEnable = true then 1 else 0 := by
  unfold State.frameInterrupt State.assertInterrupt
  by_cases h : s.vdp.vintEnable = true
  · simp only [h, and_true, if_true, asserted_call, Event.assertInterrupt.injEq, eq_comm (a := n)]
  · simp only [h, and_false, if_false, Bool.false_eq_true, Nat.add_zero]

/-- R439: a blanking line asserts nothing. -/
theorem asserted_vblankLine (n : Nat) (s : State) (y : Nat) : asserted n (s.vblankLine y) = asserted n s := by
  simp [State.vblankLine]

/-- R432: a visible line asserts what its counter step asserts. -/
theorem asserted_visibleLine (n : Nat) (s : State) (y : Nat) :
    asserted n (s.visibleLine y) = asserted n (s.visibleActive y) := by
  simp [State.visibleLine]

theorem asserted_foldl {n : Nat} {f : State → Nat → State} (h : ∀ s y, asserted n (f s y) = asserted n s) (l : List Nat)
    (s : State) : asserted n (l.foldl f s) = asserted n s := by
  induction l generalizing s with
  | nil => rfl
  | cons y l ih => exact (ih (f s y)).trans (h s y)

/-! ### The line counter -/

/-- The state a visible line's first budgets leave, in which its line counter is stepped (R432). -/
def afterFirstBudgets (s : State) (y : Nat) : State :=
  (((s.setLine y).setPhase .active).cpuExecute s.cfg.cpuActiveCycles).soundExecute (soundBudget s.cfg)

theorem visibleActive_eq (s : State) (y : Nat) : s.visibleActive y = (afterFirstBudgets s y).lineCounterStep := rfl

theorem afterFirstBudgets_sched (s : State) (y : Nat) :
    (afterFirstBudgets s y).sched = ((s.setLine y).setPhase .active).sched := by
  unfold afterFirstBudgets
  rw [soundExecute_sched, cpuExecute_sched]

theorem asserted_afterFirstBudgets (n : Nat) (s : State) (y : Nat) : asserted n (afterFirstBudgets s y) = asserted n s := by
  simp [afterFirstBudgets]

theorem IdleWith.afterFirstBudgets {v : VdpState} {s : State} (h : IdleWith v s) (y : Nat) :
    IdleWith v (afterFirstBudgets s y) :=
  (((h.sched _).sched _).cpuExecute _).soundExecute _

/-- R432: nothing in a visible line but its counter step touches the counter. -/
theorem visibleLine_hintCounter (s : State) (y : Nat) :
    (s.visibleLine y).sched.hintCounter = (s.visibleActive y).sched.hintCounter := by
  unfold State.visibleLine
  simp only [call_sched, renderIfOn_sched, setHb_hintCounter, cpuExecute_sched, setPhase_hintCounter]

/-- The state when a frame's visible lines have run. -/
def afterVisibleLines (s : State) : State := (List.range s.vdp.height).foldl State.visibleLine s.frameStart

theorem foldl_vblank_hintCounter (l : List Nat) (s : State) :
    (l.foldl State.vblankLine s).sched.hintCounter = s.sched.hintCounter := by
  induction l generalizing s with
  | nil => rfl
  | cons y l ih => rw [List.foldl_cons, ih, vblankLine_sched]

/-- R437, R439: the entry line and the blanking lines leave the counter as it is. -/
theorem runFrame_hintCounter (s : State) : s.runFrame.sched.hintCounter = (afterVisibleLines s).sched.hintCounter := by
  unfold State.runFrame
  rw [setPhase_hintCounter, foldl_vblank_hintCounter, vblankEntryLine_sched]
  rfl

/-- A frame asserts level 4 on its visible lines only (R433, R437, R439). -/
theorem asserted_runFrame_line (s : State) : asserted 4 s.runFrame = asserted 4 (afterVisibleLines s) := by
  unfold State.runFrame
  dsimp only
  rw [asserted_setPhase, asserted_foldl (asserted_vblankLine 4)]
  simp [State.vblankEntryLine, asserted_frameInterrupt, afterVisibleLines]

/-- One more line in periods of d + 1 lines: it ends the period or it does not. -/
theorem succ_div_mod (k d : Nat) :
    (k % (d + 1) = d ∧ (k + 1) / (d + 1) = k / (d + 1) + 1 ∧ (k + 1) % (d + 1) = 0) ∨
    (k % (d + 1) < d ∧ (k + 1) / (d + 1) = k / (d + 1) ∧ (k + 1) % (d + 1) = k % (d + 1) + 1) := by
  have hpos : 0 < d + 1 := d.succ_pos
  have hlt : k % (d + 1) < d + 1 := Nat.mod_lt k hpos
  have hk : k % (d + 1) + (d + 1) * (k / (d + 1)) = k := Nat.mod_add_div k (d + 1)
  rcases Nat.lt_or_ge (k % (d + 1)) d with h | h
  · exact Or.inr ⟨h, (Nat.div_mod_unique hpos).mpr ⟨by omega, by omega⟩⟩
  · exact Or.inl ⟨by omega, (Nat.div_mod_unique hpos).mpr ⟨by rw [Nat.mul_add]; omega, hpos⟩⟩

section Idle

variable {v : VdpState} {s : State} (h : IdleWith v s)

include h

/-- R433, for CPUs that issue nothing: one line's step of the counter. -/
theorem IdleWith.visibleLine_hintCounter (y : Nat) : (s.visibleLine y).sched.hintCounter =
    if s.sched.hintCounter = 0 then v.r 10 else s.sched.hintCounter - 1 := by
  rw [Proofs.visibleLine_hintCounter, visibleActive_eq, lineCounterStep_sched, (h.afterFirstBudgets y).1,
    afterFirstBudgets_sched]
  rfl

/-- R433, for CPUs that issue nothing: the line's interrupt. -/
theorem IdleWith.asserted_visibleLine (y : Nat) : asserted 4 (s.visibleLine y) =
    asserted 4 s + if s.sched.hintCounter = 0 ∧ v.hintEnable = true then 1 else 0 := by
  rw [Proofs.asserted_visibleLine, visibleActive_eq, asserted_lineCounterStep, (h.afterFirstBudgets y).1,
    afterFirstBudgets_sched, asserted_afterFirstBudgets]
  simp

/-- The counter after k visible lines, from N = register 10: it counts down and is reloaded every N + 1 lines, and each
reload asserts level 4 if IE1 is set. -/
theorem IdleWith.visibleLines_cadence (hstart : s.sched.hintCounter = v.r 10) (k : Nat) :
    ((List.range k).foldl State.visibleLine s).sched.hintCounter.toNat = (v.r 10).toNat - k % ((v.r 10).toNat + 1) ∧
    asserted 4 ((List.range k).foldl State.visibleLine s) =
      asserted 4 s + if v.hintEnable = true then k / ((v.r 10).toNat + 1) else 0 := by
  induction k with
  | zero => simp [hstart]
  | succ k ih =>
    have hidle := idleWith_foldl IdleWith.visibleLine (List.range k) h
    rw [List.range_succ, List.foldl_append, List.foldl_cons, List.foldl_nil, hidle.visibleLine_hintCounter,
      hidle.asserted_visibleLine]
    obtain ⟨hcounter, hasserted⟩ := ih
    generalize (List.range k).foldl State.visibleLine s = t at hcounter hasserted
    have hzero : t.sched.hintCounter = 0 ↔ t.sched.hintCounter.toNat = 0 := BitVec.toNat_eq
    rcases succ_div_mod k (v.r 10).toNat with ⟨hfull, hdiv, hmod⟩ | ⟨hless, hdiv, hmod⟩ <;> rw [hdiv, hmod, hasserted]
    · have hreload : t.sched.hintCounter = 0 := by rw [hzero]; omega
      simp only [hreload, if_true, true_and]
      constructor
      · omega
      · split <;> omega
    · have hcount : ¬t.sched.hintCounter = 0 := by rw [hzero]; omega
      simp only [hcount, if_false, false_and]
      constructor
      · bv_omega
      · rfl

end Idle

/-- Settles O57: one step of the counter in every state; a visible line takes it after its first budgets; and for idle CPUs
the steps of a frame's visible lines, one by one. -/
theorem lineInterruptCadence : Obligations.LineInterruptCadence := by
  refine ⟨fun s => ?step, fun s y => ⟨afterFirstBudgets_sched s y, ?counter, ?interrupt⟩, fun s hs => ?cadence⟩
  case step =>
    rw [lineCounterStep_eq]
    simp only [beq_iff_eq, Bool.and_eq_true]
    rfl
  case counter => exact visibleLine_hintCounter s y
  case interrupt => exact asserted_visibleLine 4 s y
  case cadence =>
    have hstart : IdleWith s.vdp s.frameStart := ⟨rfl, hs⟩
    refine ⟨fun k => (hstart.visibleLines_cadence rfl k).symm, _, exec_runFrame s, ?_, ?_⟩
    · exact (asserted_runFrame_line s).trans (hstart.visibleLines_cadence rfl s.vdp.height).2
    · exact (congrArg BitVec.toNat (runFrame_hintCounter s)).trans (hstart.visibleLines_cadence rfl s.vdp.height).1

/-! ### The frame interrupt -/

/-- R432, R433: a visible line asserts no level but 4. -/
theorem asserted_visibleLine_of_ne {n : Nat} (h : n ≠ 4) (s : State) (y : Nat) :
    asserted n (s.visibleLine y) = asserted n s := by
  rw [asserted_visibleLine, visibleActive_eq, asserted_lineCounterStep, if_neg (fun k => h k.1), asserted_afterFirstBudgets]
  rfl

/-- The state in which IE0 is sampled (R437, R438): the one the entry line's first budgets leave, with VB and F set. -/
def atFrameInterrupt (s : State) (y : Nat) : State :=
  (((((s.setLine y).setPhase .vblankEntry).setVb true).cpuExecute s.cfg.cpuVblankEntryCycles).soundExecute
    (soundBudget s.cfg)).setF true

theorem vblankEntryLine_eq (s : State) (y : Nat) : s.vblankEntryLine y =
    (((atFrameInterrupt s y).frameInterrupt.setPhase .vblankLine).cpuExecute
      (cpuLineCycles s.cfg - s.cfg.cpuVblankEntryCycles)).call .synthTick := rfl

/-- R437, R438: the entry line asserts level 6 once if IE0 is set when F is, and never otherwise. -/
theorem asserted_vblankEntryLine (s : State) (y : Nat) : asserted 6 (s.vblankEntryLine y) =
    asserted 6 s + if (atFrameInterrupt s y).vdp.vintEnable = true then 1 else 0 := by
  have hbefore : asserted 6 (atFrameInterrupt s y) = asserted 6 s := by simp [atFrameInterrupt]
  rw [vblankEntryLine_eq, asserted_call, asserted_cpuExecute, asserted_setPhase, asserted_frameInterrupt, hbefore]
  simp

theorem IdleWith.atFrameInterrupt {v : VdpState} {s : State} (h : IdleWith v s) (y : Nat) :
    IdleWith v (atFrameInterrupt s y) :=
  (((((h.sched _).sched _).sched _).cpuExecute _).soundExecute _).sched _

theorem idleWith_afterVisibleLines {s : State} (h : s.CpusIdle) : IdleWith s.vdp (afterVisibleLines s) :=
  idleWith_foldl IdleWith.visibleLine _ (s := s.frameStart) ⟨rfl, h⟩

theorem asserted_runFrame_frame (s : State) : asserted 6 s.runFrame = asserted 6 s +
    if (atFrameInterrupt (afterVisibleLines s) s.vdp.height).vdp.vintEnable = true then 1 else 0 := by
  unfold State.runFrame afterVisibleLines
  dsimp only
  rw [asserted_setPhase, asserted_foldl (asserted_vblankLine 6), asserted_vblankEntryLine,
    asserted_foldl (asserted_visibleLine_of_ne (by decide))]
  rfl

/-! ### The frame's render -/

theorem runFrame_fb (s : State) : s.runFrame.fb = (afterVisibleLines s).fb := by
  unfold State.runFrame afterVisibleLines
  rw [setPhase_fb, foldl_vblank_fb, vblankEntryLine_fb]

/-- R435, for CPUs that issue nothing: with the display on, k visible lines render the first k rows; otherwise none. -/
theorem visibleLines_fb {v : VdpState} {s : State} (h : IdleWith v s) (k i : Nat) (hi : i < 240) :
    ((List.range k).foldl State.visibleLine s).fb[i] =
      if i < k ∧ v.displayOn = true then v.renderRow s.cfg i s.fb[i] else s.fb[i] := by
  induction k with
  | zero => rfl
  | succ k ih =>
    have hidle := idleWith_foldl IdleWith.visibleLine (List.range k) h
    rw [List.range_succ, List.foldl_append, List.foldl_cons, List.foldl_nil, visibleLine_fb _ k i hi,
      (hidle.visibleLine k).1, (lineStep_foldl _ lineStep_visibleLine (List.range k) s).cfg, ih]
    by_cases hik : i = k
    · simp [hik]
    · simp only [hik, false_and, if_false, show i < k + 1 ↔ i < k by omega]

theorem afterVisibleLines_fb {s : State} (h : s.CpusIdle) (i : Nat) (hi : i < 240) : (afterVisibleLines s).fb[i] =
    if i < s.vdp.height ∧ s.vdp.displayOn = true then s.vdp.renderRow s.cfg i s.fb[i] else s.fb[i] :=
  visibleLines_fb (s := s.frameStart) ⟨rfl, h⟩ s.vdp.height i hi

/-- A pixel of a row that is rendered under a condition (R360, R377). -/
theorem getElem_renderRow_ite (v : VdpState) (c : Config.Params) (y : Nat) (old : Vector Long 320) (p : Prop)
    [Decidable p] (x : Fin 320) : (if p ∧ v.displayOn = true then v.renderRow c y old else old)[x] =
      if p ∧ (v.r 1).getLsbD 6 = true ∧ x.val < (if (v.r 12).getLsbD 0 then 320 else 256) then packColor c (v.buf x.val y)
      else old[x] := by
  by_cases h : p ∧ v.displayOn = true
  · rw [if_pos h, Fin.getElem_fin, getElem_renderRow]
    simp only [h.1, show (v.r 1).getLsbD 6 = true from h.2, true_and]
    rfl
  · rw [if_neg h, if_neg fun k => h ⟨k.1, k.2.1⟩]

/-- Settles O58: level 6 is asserted in the entry line only; a row is written by its own visible line only. -/
theorem frameInterrupt : Obligations.FrameInterrupt := by
  refine ⟨fun s y _ => ?line, fun s => ⟨_, exec_runFrame s, runFrame_fb s, ?atMostOnce, fun hs => ?idle,
    fun hs hon j x => ?shown, fun hs hoff => ?hidden⟩⟩
  case line =>
    intro t j x
    exact (congrArg (·[x]) (visibleLine_fb s y j.val j.isLt)).trans (getElem_renderRow_ite t.vdp s.cfg y s.fb[j] _ x)
  case atMostOnce =>
    refine (asserted_runFrame_frame s).le.trans ?_
    split
    · exact Nat.le_refl _
    · exact Nat.le_succ _
  case idle =>
    refine (asserted_runFrame_frame s).trans ?_
    rw [((idleWith_afterVisibleLines hs).atFrameInterrupt s.vdp.height).1]
    rfl
  case shown =>
    rw [replied_fb, runFrame_fb]
    refine (congrArg (·[x]) (afterVisibleLines_fb hs j.val j.isLt)).trans ?_
    refine (getElem_renderRow_ite s.vdp s.cfg j.val s.fb[j] _ x).trans ?_
    simp only [hon, true_and]
    rfl
  case hidden =>
    have hdisplay : s.vdp.displayOn = false := hoff
    refine (runFrame_fb s).trans (Vector.ext fun i hi => ?_)
    rw [afterVisibleLines_fb hs i hi, if_neg (by simp [hdisplay])]

end Sys2Proof.Proofs
end

section
/-! PROOFS. A frame as it is seen from outside: one walk through its lines, for any watcher of its events. What is told of
the budgets and ticks (O56) and of a polling CPU (O55) follows from it. -/

namespace Sys2Proof.Proofs

open Sys2Proof.Machine Sys2Proof.Laws

/-- R430: the entry line follows the visible lines. -/
theorem height_lt_totalLines (s : State) : s.vdp.height < totalLines s.cfg.region := by
  have hheight := height_cases s.vdp
  have hlines := totalLines_cases s.cfg.region
  omega

/-! ### What the events between two states show -/

section Shows

variable {β : Type} {p : Event → Option β}

/-- The events between `s` and `t`, seen through `p`, are `xs`, oldest first. -/
def Shows (p : Event → Option β) (s t : State) (xs : List β) : Prop :=
  t.env.events.filterMap p = xs.reverse ++ s.env.events.filterMap p

theorem shows_of_events {s t : State} (h : t.env.events = s.env.events) : Shows p s t [] := by
  rw [Shows, h]
  rfl

theorem Shows.trans {s t u : State} {xs ys : List β} (h : Shows p s t xs) (k : Shows p t u ys) :
    Shows p s u (xs ++ ys) := by
  rw [Shows, k, h, List.reverse_append, List.append_assoc]

theorem shows_call (s : State) (e : Event) : Shows p s (s.call e) (p e).toList := by
  rw [Shows, call_events, List.filterMap_cons]
  cases p e <;> rfl

/-- Calls that `p` does not see. -/
theorem shows_of_called {s t : State} {es : List Event} (h : s.Called t es) (hp : ∀ e ∈ es, p e = none) : Shows p s t [] := by
  rw [Shows, h, List.filterMap_append, List.filterMap_eq_nil_iff.mpr hp]
  rfl

theorem shows_budget (hp : ∀ e, inBudget e = true → p e = none) {s t : State} (h : BudgetStep s t) : Shows p s t [] := by
  obtain ⟨es, hcalled, hbudget⟩ := h.called
  exact shows_of_called hcalled fun e he => hp e (hbudget e he)

theorem shows_bus (hp : ∀ e, e.ofBus = true → p e = none) {s t : State} (h : s.BusFrame t) : Shows p s t [] := by
  obtain ⟨es, hcalled, hbus⟩ := h.called
  exact shows_of_called hcalled fun e he => hp e (hbus e he)

end Shows

/-! ### A watcher of a frame -/

/-- What a read can be told of the scheduler: the flags (R72), the frame's height and the line (R440). -/
structure View where
  vb : Bool
  hb : Bool
  f : Bool
  v30 : Bool
  line : Nat

def viewOf (c : SchedState) : View := ⟨c.vb, c.hb, c.f, c.frameV30, c.curLine⟩

/-- What is in view on visible line `y` (R431, R432). -/
def visibleView (v30 : Bool) (y : Nat) (hb : Bool) : View := ⟨false, hb, false, v30, y⟩

/-- What is in view on line `y` from the entry line on (R437, R439). -/
def blankView (v30 : Bool) (y : Nat) (f : Bool) : View := ⟨true, false, f, v30, y⟩

/-- The states agree in all that a CPU's next budget depends on, but for the scheduler. -/
structure SameBudgets (s t : State) : Prop where
  cfg : t.cfg = s.cfg
  vdp : t.vdp = s.vdp
  cpuScript : t.env.cpuScript = s.env.cpuScript
  soundScript : t.env.soundScript = s.env.soundScript

/-- A way to watch a frame of a machine with the parameters `cfg`: what is seen of an event, what is known of the state when
`n` budgets of the primary CPU are to come, and what is then seen of a budget of each CPU and of a tick. -/
structure Watcher (β : Type) where
  cfg : Config.Params
  sees : Event → Option β
  knows : Nat → State → Prop
  cpu : View → Nat → List β
  sound : Nat → List β
  tick : List β
  knows_cfg : ∀ {n s}, knows n s → s.cfg = cfg
  knows_same : ∀ {n s t}, knows n s → SameBudgets s t → knows n t
  cpuExecute : ∀ {n s} m, knows (n + 1) s →
    Shows sees s (s.cpuExecute m) (cpu (viewOf s.sched) m) ∧ knows n (s.cpuExecute m)
  soundExecute : ∀ {n s} m, knows n s → Shows sees s (s.soundExecute m) (sound m) ∧ knows n (s.soundExecute m)
  synthTick : (sees .synthTick).toList = tick
  interrupt : ∀ l, sees (.assertInterrupt l) = none

namespace Watcher

variable {β : Type} (W : Watcher β)

/-- From `s` the watcher has come to `t`, with `n` primary-CPU budgets to come and `v` in view, and has seen `xs`. -/
structure Run (s : State) (n : Nat) (v : View) (xs : List β) (t : State) : Prop where
  shows : Shows W.sees s t xs
  knows : W.knows n t
  view : viewOf t.sched = v

namespace Run

variable {W} {s t : State} {n : Nat} {v : View} {xs : List β}

/-- An update of the scheduler. -/
theorem sched (h : W.Run s n v xs t) (c : SchedState) {w : View} (hw : viewOf c = w) :
    W.Run s n w xs { t with sched := c } :=
  ⟨h.shows, W.knows_same h.knows ⟨rfl, rfl, rfl, rfl⟩, hw⟩

theorem setVb (h : W.Run s n v xs t) (b : Bool) : W.Run s n { v with vb := b } xs (t.setVb b) :=
  h.sched _ (h.view ▸ rfl)

theorem setHb (h : W.Run s n v xs t) (b : Bool) : W.Run s n { v with hb := b } xs (t.setHb b) :=
  h.sched _ (h.view ▸ rfl)

theorem setF (h : W.Run s n v xs t) (b : Bool) : W.Run s n { v with f := b } xs (t.setF b) :=
  h.sched _ (h.view ▸ rfl)

theorem setLine (h : W.Run s n v xs t) (y : Nat) : W.Run s n { v with line := y } xs (t.setLine y) :=
  h.sched _ (h.view ▸ rfl)

theorem setPhase (h : W.Run s n v xs t) (p : Phase) : W.Run s n v xs (t.setPhase p) := h.sched _ h.view

theorem cpuExecute (h : W.Run s (n + 1) v xs t) (m : Nat) : W.Run s n v (xs ++ W.cpu v m) (t.cpuExecute m) := by
  obtain ⟨hshows, hknows⟩ := W.cpuExecute m h.knows
  refine ⟨h.shows.trans (h.view ▸ hshows), hknows, ?_⟩
  rw [cpuExecute_sched, h.view]

theorem soundExecute (h : W.Run s n v xs t) (m : Nat) : W.Run s n v (xs ++ W.sound m) (t.soundExecute m) := by
  obtain ⟨hshows, hknows⟩ := W.soundExecute m h.knows
  refine ⟨h.shows.trans hshows, hknows, ?_⟩
  rw [soundExecute_sched, h.view]

theorem synthTick (h : W.Run s n v xs t) : W.Run s n v (xs ++ W.tick) (t.call .synthTick) :=
  ⟨h.shows.trans (W.synthTick ▸ shows_call t .synthTick), W.knows_same h.knows ⟨rfl, rfl, rfl, rfl⟩, h.view⟩

theorem assertInterrupt (h : W.Run s n v xs t) (l : Nat) : W.Run s n v xs (t.assertInterrupt l) := by
  have hnone : Shows W.sees t (t.assertInterrupt l) [] := by
    have := shows_call (p := W.sees) t (.assertInterrupt l)
    rwa [W.interrupt] at this
  exact ⟨by simpa using h.shows.trans hnone, W.knows_same h.knows ⟨rfl, rfl, rfl, rfl⟩, h.view⟩

theorem frameInterrupt (h : W.Run s n v xs t) : W.Run s n v xs t.frameInterrupt := by
  unfold State.frameInterrupt
  split
  exacts [h.assertInterrupt 6, h]

theorem lineCounterStep (h : W.Run s n v xs t) : W.Run s n v xs t.lineCounterStep := by
  have hcounter : ∀ b, W.Run s n v xs { t with sched := { t.sched with hintCounter := b } } := fun b => h.sched _ h.view
  unfold State.lineCounterStep
  dsimp only
  split
  · split
    exacts [(hcounter _).assertInterrupt 4, hcounter _]
  · exact hcounter _

theorem renderIfOn (h : W.Run s n v xs t) (y : Nat) : W.Run s n v xs (t.renderIfOn y) := by
  have henv := renderIfOn_events t y
  refine ⟨?_, W.knows_same h.knows ⟨renderIfOn_cfg t y, renderIfOn_vdp t y, by rw [henv], by rw [henv]⟩, ?_⟩
  · simpa using h.shows.trans (shows_of_events (congrArg EnvState.events henv))
  · rw [renderIfOn_sched, h.view]

end Run

/-! ### The lines of a frame -/

/-- What is seen of visible line `y` (R432). -/
def visibleSeen (v30 : Bool) (y : Nat) : List β :=
  W.cpu (visibleView v30 y false) W.cfg.cpuActiveCycles ++ W.sound (soundBudget W.cfg) ++
    W.cpu (visibleView v30 y true) W.cfg.cpuHblankCycles ++ W.tick

/-- What is seen of the entry line `y` (R437). -/
def entrySeen (v30 : Bool) (y : Nat) : List β :=
  W.cpu (blankView v30 y false) W.cfg.cpuVblankEntryCycles ++ W.sound (soundBudget W.cfg) ++
    W.cpu (blankView v30 y true) (cpuLineCycles W.cfg - W.cfg.cpuVblankEntryCycles) ++ W.tick

/-- What is seen of blanking line `y` (R439). -/
def blankSeen (v30 : Bool) (y : Nat) : List β :=
  W.cpu (blankView v30 y true) (cpuLineCycles W.cfg) ++ W.sound (soundBudget W.cfg) ++ W.tick

/-- What is seen of a frame (R430). -/
def frameSeen (v30 : Bool) (height total : Nat) : List β :=
  (List.range height).flatMap (W.visibleSeen v30) ++ W.entrySeen v30 height ++
    (List.range' (height + 1) (total - (height + 1))).flatMap (W.blankSeen v30)

variable {W} {s t : State} {n : Nat} {v30 : Bool} {x : Nat} {xs : List β}

theorem Run.visibleLine (h : W.Run s (n + 2) (visibleView v30 x false) xs t) (y : Nat) :
    W.Run s n (visibleView v30 y false) (xs ++ W.visibleSeen v30 y) (t.visibleLine y) := by
  have hcfg : t.cfg = W.cfg := W.knows_cfg h.knows
  have hrun := ((((((((((h.setLine y).setPhase .active).cpuExecute W.cfg.cpuActiveCycles).soundExecute
    (soundBudget W.cfg)).lineCounterStep).setHb true).setPhase .hblank).cpuExecute W.cfg.cpuHblankCycles).setHb
    false).renderIfOn y).synthTick
  unfold State.visibleLine State.visibleActive
  rw [hcfg]
  simpa only [visibleSeen, visibleView, List.append_assoc] using hrun

theorem Run.vblankEntryLine (h : W.Run s (n + 2) (visibleView v30 x false) xs t) (y : Nat) :
    W.Run s n (blankView v30 y true) (xs ++ W.entrySeen v30 y) (t.vblankEntryLine y) := by
  have hcfg : t.cfg = W.cfg := W.knows_cfg h.knows
  have hrun := ((((((((((h.setLine y).setPhase .vblankEntry).setVb true).cpuExecute W.cfg.cpuVblankEntryCycles).soundExecute
    (soundBudget W.cfg)).setF true).frameInterrupt).setPhase .vblankLine).cpuExecute
    (cpuLineCycles W.cfg - W.cfg.cpuVblankEntryCycles))).synthTick
  unfold State.vblankEntryLine
  rw [hcfg]
  simpa only [entrySeen, blankView, visibleView, List.append_assoc] using hrun

theorem Run.vblankLine (h : W.Run s (n + 1) (blankView v30 x true) xs t) (y : Nat) :
    W.Run s n (blankView v30 y true) (xs ++ W.blankSeen v30 y) (t.vblankLine y) := by
  have hcfg : t.cfg = W.cfg := W.knows_cfg h.knows
  have hrun := ((((h.setLine y).setPhase .vblankLine).cpuExecute (cpuLineCycles W.cfg)).soundExecute
    (soundBudget W.cfg)).synthTick
  unfold State.vblankLine
  rw [hcfg]
  simpa only [blankSeen, blankView, List.append_assoc] using hrun

theorem Run.visibleLines {k : Nat} (h : W.Run s (n + 2 * k) (visibleView v30 0 false) xs t) :
    W.Run s n (visibleView v30 (k - 1) false) (xs ++ (List.range k).flatMap (W.visibleSeen v30))
      ((List.range k).foldl State.visibleLine t) := by
  induction k generalizing n with
  | zero => simpa using h
  | succ k ih =>
    have hlast := (ih (n := n + 2) (by rwa [show n + 2 + 2 * k = n + 2 * (k + 1) by omega])).visibleLine k
    simpa [List.range_succ] using hlast

theorem Run.vblankLines {k y : Nat} (h : W.Run s (n + k) (blankView v30 y true) xs t) :
    W.Run s n (blankView v30 (y + k) true) (xs ++ (List.range' (y + 1) k).flatMap (W.blankSeen v30))
      ((List.range' (y + 1) k).foldl State.vblankLine t) := by
  induction k generalizing n with
  | zero => simpa using h
  | succ k ih =>
    have hlast := (ih (n := n + 1) (by rwa [show n + 1 + k = n + (k + 1) by omega])).vblankLine (y + (k + 1))
    rw [List.range'_1_concat, show y + 1 + k = y + (k + 1) by omega]
    simpa using hlast

/-- A watcher of a whole frame: two budgets of the primary CPU in each visible line and in the entry line, and one in each
blanking line. -/
theorem shows_runFrame (W : Watcher β) {s : State} (h : W.knows (totalLines s.cfg.region + s.vdp.height + 1) s) :
    Shows W.sees s s.runFrame (W.frameSeen s.vdp.v30 s.vdp.height (totalLines s.cfg.region)) := by
  have hlines := height_lt_totalLines s
  unfold State.runFrame frameSeen
  generalize s.vdp.height = height at *
  generalize totalLines s.cfg.region = total at *
  have hbudgets : total + height + 1 = 0 + (total - (height + 1)) + 2 + 2 * height := by omega
  rw [hbudgets] at h
  have hstart : W.Run s (0 + (total - (height + 1)) + 2 + 2 * height) (visibleView s.vdp.v30 0 false) [] s.frameStart :=
    ⟨shows_of_events rfl, W.knows_same h ⟨rfl, rfl, rfl, rfl⟩, rfl⟩
  exact ((hstart.visibleLines.vblankEntryLine height).vblankLines.setPhase .idle).shows

end Watcher

end Sys2Proof.Proofs
end

section
/-! PROOFS. The statements of 44_frame_scheduler.md on a frame as it is seen from outside: its budgets and ticks in order
(O56), and what a frame leaves and a polling CPU reads in each budget (O55). -/

namespace Sys2Proof.Proofs

open Sys2Proof.Machine Sys2Proof.Laws

/-! ### The budgets and ticks of a frame -/

/-- No event of a transaction is a call of the scheduler's. -/
theorem ofLine_guard (e : Event) (h : inBudget e = true) : Option.guard Event.ofLine e = none := by
  cases e <;> simp_all [inBudget, Event.ofBus, Event.ofLine]

/-- The watcher of the calls the scheduler makes on every line. -/
def callWatcher (c : Config.Params) : Watcher Event where
  cfg := c
  sees := Option.guard Event.ofLine
  knows _ s := s.cfg = c
  cpu _ m := [.cpuExecute m]
  sound m := [.soundExecute m]
  tick := [.synthTick]
  knows_cfg := id
  knows_same h k := k.cfg.trans h
  cpuExecute {_ s} m h := ⟨(shows_call s (.cpuExecute m)).trans (shows_budget ofLine_guard (budgetStep_cpuExecute s m)),
    (budgetStep_cpuExecute s m).cfg.trans h⟩
  soundExecute {_ s} m h :=
    ⟨(shows_call s (.soundExecute m)).trans (shows_budget ofLine_guard (budgetStep_soundExecute s m)),
      (budgetStep_soundExecute s m).cfg.trans h⟩
  synthTick := rfl
  interrupt _ := rfl

theorem flatMap_const {α γ : Type} (l : List α) (xs : List γ) :
    l.flatMap (fun _ => xs) = (List.replicate l.length xs).flatten := by
  rw [List.flatMap_def, List.map_const']

/-- R430: the calls of a frame, line by line. -/
theorem frameSeen_calls (c : Config.Params) (v30 : Bool) (height total : Nat) :
    (callWatcher c).frameSeen v30 height total =
      (List.replicate height [.cpuExecute c.cpuActiveCycles, .soundExecute (soundBudget c), .cpuExecute c.cpuHblankCycles,
        .synthTick]).flatten ++
      [.cpuExecute c.cpuVblankEntryCycles, .soundExecute (soundBudget c),
        .cpuExecute (cpuLineCycles c - c.cpuVblankEntryCycles), .synthTick] ++
      (List.replicate (total - (height + 1))
        [.cpuExecute (cpuLineCycles c), .soundExecute (soundBudget c), .synthTick]).flatten := by
  have hvisible := flatMap_const (List.range height) ((callWatcher c).visibleSeen v30 0)
  have hblank := flatMap_const (List.range' (height + 1) (total - (height + 1))) ((callWatcher c).blankSeen v30 0)
  rw [List.length_range] at hvisible
  rw [List.length_range'] at hblank
  exact congr (congrArg (· ++ _ ++ ·) hvisible) hblank

/-- The measure whose total over the events is the number of times `a` has happened. -/
def isEvent (a e : Event) : Nat := if e = a then 1 else 0

theorem total_isEvent (a : Event) (s : State) : total (isEvent a) s = s.env.events.count a := by
  unfold total
  induction s.env.events with
  | nil => rfl
  | cons e l ih =>
    rw [List.map_cons, List.sum_cons, ih, List.count_cons, Nat.add_comm]
    simp only [isEvent, beq_iff_eq]

/-- A call made once in every line is made TOTAL_LINES times in a frame. -/
theorem count_runFrame {a : Event} (s : State) (hbudget : inBudget a = false) (hinterrupt : ∀ l, a ≠ .assertInterrupt l)
    (hline : ∀ n, isEvent a (.cpuExecute n) = 0) (honce : isEvent a (.soundExecute (soundBudget s.cfg)) +
      isEvent a .synthTick = 1) :
    s.runFrame.env.events.count a = s.env.events.count a + totalLines s.cfg.region := by
  have hquiet : ∀ e, inBudget e = true → isEvent a e = 0 := fun e he => if_neg (by rintro rfl; simp [hbudget] at he)
  have hnone : ∀ l, isEvent a (.assertInterrupt l) = 0 := fun l => if_neg (Ne.symm (hinterrupt l))
  have htotal := total_runFrame (isEvent a) hquiet (hnone 4) (hnone 6) s
  have hlines := height_lt_totalLines s
  simp only [hline, Nat.zero_add, Nat.add_zero, honce, Nat.mul_one, total_isEvent] at htotal
  omega

/-- Where the entry budget fits in a line, a frame hands out CPU_LINE_CYCLES a line (R434). -/
theorem cycles_runFrame (s : State) (h : s.cfg.cpuVblankEntryCycles ≤ cpuLineCycles s.cfg) :
    total Event.cpuCycles s.runFrame = total Event.cpuCycles s + totalLines s.cfg.region * cpuLineCycles s.cfg := by
  have hquiet : ∀ e, inBudget e = true → Event.cpuCycles e = 0 := fun e he => by
    cases e <;> simp_all [inBudget, Event.ofBus, Event.cpuCycles]
  have hlines := height_lt_totalLines s
  have hactive : cpuLineCycles s.cfg = s.cfg.cpuActiveCycles + s.cfg.cpuHblankCycles := rfl
  rw [total_runFrame Event.cpuCycles hquiet rfl rfl s]
  simp only [Event.cpuCycles, Nat.add_zero]
  rw [← hactive, Nat.add_sub_cancel' h,
    show totalLines s.cfg.region = s.vdp.height + 1 + (totalLines s.cfg.region - (s.vdp.height + 1)) by omega]
  simp only [Nat.add_mul, Nat.one_mul, Nat.add_sub_cancel_left]
  omega

/-- Settles O56: the calls as their watcher sees them, and the laws' totals of a frame. -/
theorem frameTicksAndCycles : Obligations.FrameTicksAndCycles := by
  intro s height total line sound
  refine ⟨_, exec_runFrame s, ?calls, ?sounds, ?ticks, cycles_runFrame s⟩
  case calls =>
    have hshows := Watcher.shows_runFrame (callWatcher s.cfg) (s := s) rfl
    rw [frameSeen_calls, Shows, callWatcher, List.filterMap_eq_filter] at hshows
    exact hshows
  case sounds => exact count_runFrame s rfl nofun (fun _ => rfl) (congrArg (· + 0) (if_pos rfl))
  case ticks => exact count_runFrame s rfl nofun (fun _ => rfl) rfl

/-! ### A polling CPU -/

section Polling

variable {β : Type} {g : Word → β}

/-- What is seen of the word that a word read was answered with. -/
def seesWord (g : Word → β) (e : Event) : Option β := e.wordSeen.map g

/-- No call of a bus transaction is a read's answer. -/
theorem seesWord_ofBus (e : Event) (h : e.ofBus = true) : seesWord g e = none := by
  cases e <;> simp_all [Event.ofBus, seesWord, Event.wordSeen]

/-- The state in which the transactions of a budget are served (log 3). -/
def budgetStart (s : State) (m : Nat) (rest : List (List BusOp)) : State :=
  { s with env := { s.env with cpuScript := rest, events := .cpuExecute m :: s.env.events } }

theorem cpuExecute_single {s : State} {op : BusOp} {rest : List (List BusOp)} (h : s.env.cpuScript = [op] :: rest) (m : Nat) :
    s.cpuExecute m = (budgetStart s m rest).cpuAccess op := by
  have hscript : (s.call (.cpuExecute m)).env.cpuScript = [op] :: rest := h
  unfold State.cpuExecute
  dsimp only
  rw [hscript]
  rfl

/-- Of a budget with one word read, its answer is seen. -/
theorem shows_poll {s : State} {a : Long} {rest : List (List BusOp)} (h : s.env.cpuScript = [.read16 a] :: rest) (m : Nat) :
    Shows (seesWord g) s (s.cpuExecute m) [g ((budgetStart s m rest).busRead16 (busAddr a)).1] := by
  have hstart : Shows (seesWord g) s (budgetStart s m rest) [] := shows_call s (.cpuExecute m)
  have hread := shows_bus (p := seesWord g) seesWord_ofBus (busStep_busOp (budgetStart s m rest) (.read16 a)).toBusFrame
  rw [cpuExecute_single h]
  exact (hstart.trans hread).trans (shows_call _ _)

theorem shows_soundAccesses (ops : List SoundOp) (s : State) : Shows (seesWord g) s (ops.foldl State.soundAccess s) [] ∧
    (ops.foldl State.soundAccess s).env.cpuScript = s.env.cpuScript := by
  induction ops generalizing s with
  | nil => exact ⟨shows_of_events rfl, rfl⟩
  | cons op ops ih =>
    have hop := (busStep_soundOp s op).toBusFrame
    have haccess : Shows (seesWord g) s (s.soundAccess op) [] := (shows_bus seesWord_ofBus hop).trans (shows_call _ _)
    exact ⟨haccess.trans (ih _).1, (ih _).2.trans hop.cpuScript⟩

/-- The sound CPU's budgets answer the primary CPU nothing and leave its script. -/
theorem shows_soundExecute (s : State) (m : Nat) :
    Shows (seesWord g) s (s.soundExecute m) [] ∧ (s.soundExecute m).env.cpuScript = s.env.cpuScript := by
  have hcall : Shows (seesWord g) s (s.call (.soundExecute m)) [] := shows_call _ _
  unfold State.soundExecute
  dsimp only
  split
  · exact ⟨hcall, rfl⟩
  · obtain ⟨haccesses, hscript⟩ := shows_soundAccesses (g := g) _ _
    exact ⟨hcall.trans haccesses, hscript⟩

end Polling

theorem soundExecute_idle {s : State} (h : s.env.soundScript = []) (m : Nat) :
    s.soundExecute m = s.call (.soundExecute m) := by
  have hscript : (s.call (.soundExecute m)).env.soundScript = [] := h
  unfold State.soundExecute
  dsimp only
  rw [hscript]

/-! R442: the status word. -/

theorem busRead16_status (s : State) : s.busRead16 (busAddr 0xC00004) = s.statusRead := by
  rw [busRead16_vdp s (r := .vdp) (by decide) rfl]
  rfl

/-- VB, HB and F (R76) of a status word. -/
def blanksOf (w : Word) : Bool × Bool × Bool := (w.getLsbD 3, w.getLsbD 2, w.getLsbD 7)

theorem blanksOf_statusWord (s : State) (d : BitVec 6) : blanksOf (s.statusWord d) = (s.sched.vb, s.sched.hb, s.sched.f) := by
  obtain ⟨-, -, hf, -, -, -, hvb, hhb, -⟩ := statusWord_bits s d
  rw [blanksOf, hvb, hhb, hf]

/-- The watcher of a primary CPU that reads the status word once in each of its `n` budgets. -/
def statusWatcher (c : Config.Params) : Watcher (Bool × Bool × Bool) where
  cfg := c
  sees := seesWord blanksOf
  knows n s := s.cfg = c ∧ s.env.cpuScript = List.replicate n [.read16 0xC00004]
  cpu v _ := [(v.vb, v.hb, v.f)]
  sound _ := []
  tick := []
  knows_cfg h := h.1
  knows_same h k := ⟨k.cfg.trans h.1, k.cpuScript.trans h.2⟩
  cpuExecute {n s} m h := by
    have hshows := shows_poll (g := blanksOf) h.2 m
    rw [busRead16_status, State.statusRead, blanksOf_statusWord] at hshows
    refine ⟨hshows, (budgetStep_cpuExecute s m).cfg.trans h.1, ?_⟩
    rw [cpuExecute_single h.2]
    exact (busStep_busOp _ _).cpuScript
  soundExecute {_ s} m h :=
    have hsound := shows_soundExecute s m
    ⟨hsound.1, (budgetStep_soundExecute s m).cfg.trans h.1, hsound.2.trans h.2⟩
  synthTick := rfl
  interrupt _ := rfl

theorem frameSeen_status (c : Config.Params) (v30 : Bool) {height total : Nat} (h : height + 1 ≤ total) :
    (statusWatcher c).frameSeen v30 height total =
      (List.replicate height [(false, false, false), (false, true, false)]).flatten ++ [(true, false, false)] ++
        List.replicate (total - height) (true, false, true) := by
  have hvisible := flatMap_const (List.range height) ((statusWatcher c).visibleSeen v30 0)
  have hblank := flatMap_const (List.range' (height + 1) (total - (height + 1))) ((statusWatcher c).blankSeen v30 0)
  rw [List.length_range] at hvisible
  rw [List.length_range'] at hblank
  have hframe := congr (congrArg (· ++ (statusWatcher c).entrySeen v30 height ++ ·) hvisible)
    (hblank.trans List.flatten_replicate_singleton)
  rw [show total - height = total - (height + 1) + 1 by omega, List.replicate_succ]
  refine hframe.trans ?_
  simp only [List.append_assoc]
  rfl

/-! R440, R441: the H/V counter. -/

theorem busRead16_counter {s : State} (h : s.vdp.hvLatched = false) : s.busRead16 (busAddr 0xC00008) = s.hvLive := by
  rw [busRead16_vdp s (r := .vdp) (by decide) rfl]
  exact hvRead_live h

/-- The V half of an H/V counter word. -/
def vHalf (w : Word) : Byte := w.extractLsb' 8 8

theorem vHalf_hvLive (s : State) : vHalf s.hvLive.1 = s.vLive := hiByte_append _ _

/-- The watcher of a primary CPU that reads the H/V counter once in each of its `n` budgets, with the latch off and the
sound CPU idle. -/
def counterWatcher (c : Config.Params) : Watcher Byte where
  cfg := c
  sees := seesWord vHalf
  knows n s := s.cfg = c ∧ s.env.cpuScript = List.replicate n [.read16 0xC00008] ∧ s.env.soundScript = [] ∧
    s.vdp.hvLatched = false
  cpu v _ := [vCounter c.region v.v30 v.line]
  sound _ := []
  tick := []
  knows_cfg h := h.1
  knows_same h k := ⟨k.cfg.trans h.1, k.cpuScript.trans h.2.1, k.soundScript.trans h.2.2.1, by rw [k.vdp]; exact h.2.2.2⟩
  cpuExecute {n s} m h := by
    obtain ⟨rfl, hscript, hsound, hlatch⟩ := h
    have hread := busRead16_counter (s := budgetStart s m (List.replicate n [.read16 0xC00008])) hlatch
    have hbus := busStep_busOp (budgetStart s m (List.replicate n [.read16 0xC00008])) (.read16 0xC00008)
    have hshows := shows_poll (g := vHalf) hscript m
    rw [hread, vHalf_hvLive] at hshows
    refine ⟨hshows, ?_⟩
    rw [cpuExecute_single hscript]
    refine ⟨hbus.cfg, hbus.cpuScript, hbus.soundScript.trans hsound, ?_⟩
    exact (congrArg (fun r => r.2.vdp.hvLatched) hread).trans hlatch
  soundExecute {_ s} m h := by
    rw [soundExecute_idle h.2.2.1]
    exact ⟨shows_call s _, h⟩
  synthTick := rfl
  interrupt _ := rfl

theorem range_eq_lines {height total : Nat} (h : height + 1 ≤ total) :
    List.range total = List.range height ++ [height] ++ List.range' (height + 1) (total - (height + 1)) := by
  rw [← List.range_succ, List.range_eq_range', List.range_eq_range', ← Nat.zero_add (height + 1), List.range'_append_1,
    Nat.zero_add, Nat.add_sub_cancel' h]

theorem frameSeen_counter (c : Config.Params) (v30 : Bool) {height total : Nat} (h : height + 1 ≤ total) :
    (counterWatcher c).frameSeen v30 height total = (List.range total).flatMap fun y =>
      if y ≤ height then [vCounter c.region v30 y, vCounter c.region v30 y] else [vCounter c.region v30 y] := by
  rw [range_eq_lines h, List.flatMap_append, List.flatMap_append, List.flatMap_singleton, if_pos (Nat.le_refl height)]
  refine congr (congrArg (· ++ _ ++ ·) (List.flatMap_congr fun y hy => ?_)) (List.flatMap_congr fun y hy => ?_)
  · rw [if_pos (List.mem_range.mp hy).le]
    rfl
  · rw [if_neg (by have := (List.mem_range'_1.mp hy).1; omega)]
    rfl

/-- Settles O55: what the frame's parts leave, and what the two polling CPUs' watchers see. -/
theorem frameLeavesFlags : Obligations.FrameLeavesFlags := by
  intro s height total
  obtain ⟨hvb, hf, hhb, hphase, hline, hv30⟩ := runFrame_sched s
  refine ⟨rfl, _, exec_runFrame s, hvb, hhb, hf, hphase, hline, hv30, fun j x hj => ?rows, fun hcpu => ?status,
    fun hcpu hsound hlatch => ?counter⟩
  case rows =>
    have hrow := foldl_visible_row (List.range height) s.frameStart j.val j.isLt (by simpa using hj)
    rw [replied_fb, runFrame_fb]
    exact congrArg (·[x]) hrow
  case status =>
    have hshows := Watcher.shows_runFrame (statusWatcher s.cfg) ⟨rfl, hcpu⟩
    rw [frameSeen_status s.cfg s.vdp.v30 (height_lt_totalLines s)] at hshows
    exact hshows
  case counter =>
    have hshows := Watcher.shows_runFrame (counterWatcher s.cfg) ⟨rfl, hcpu, hsound, hlatch⟩
    rw [frameSeen_counter s.cfg s.vdp.v30 (height_lt_totalLines s)] at hshows
    simp only [List.map_filterMap]
    exact hshows

end Sys2Proof.Proofs
end


section
/-! PROOFS. The statement of 60_exceptions.md: no step faults, and only a request that encodes no row is refused (O7). -/

namespace Sys2Proof.Proofs

open Sys2Proof.Machine Sys2Proof.Laws

/-- With nothing asked the step changes nothing (R484, log 15). -/
theorem step_of_inbox_nil {s : State} (h : s.env.inbox = []) : step s = .next s := by
  unfold step
  rw [h]

/-- Bytes that encode no row are refused by the name of their error (log 2). -/
theorem serve_of_decode_error {s : State} {q : Request} {e : DecodeError} (h : decode s.decodeCtx q = .error e) :
    serve q s = .refused (.undecodable e) := by
  unfold serve
  rw [h]

/-- Serving a request completes the row it encodes (O8), or refuses it because it encodes none. -/
theorem serve_completes_or_refuses (q : Request) (s : State) :
    (∃ t, serve q s = .next t) ∨ ∃ e, decode s.decodeCtx q = .error e ∧ serve q s = .refused (.undecodable e) := by
  cases hdecode : decode s.decodeCtx q with
  | ok i =>
    obtain ⟨t, ht, -⟩ := exec_completes i s
    exact .inl ⟨t, (serve_of_decode hdecode).trans ht⟩
  | error e => exact .inr ⟨e, rfl, serve_of_decode_error hdecode⟩

/-- Settles O7: the decoding context does not see the queue, so taking the request off leaves its error as it was. -/
theorem stepStopsOnlyOnBadRequest : Obligations.StepStopsOnlyOnBadRequest := by
  intro s
  cases hq : s.env.inbox with
  | nil => exact .inl ⟨s, step_of_inbox_nil hq⟩
  | cons q rest =>
    rw [step_of_inbox hq]
    obtain hnext | ⟨e, hdecode, hrefused⟩ :=
      serve_completes_or_refuses q { s with env := { s.env with inbox := rest } }
    · exact .inl hnext
    · exact .inr ⟨q, rest, e, rfl, hdecode, hrefused⟩

end Sys2Proof.Proofs
end

section
/-! PROOFS. The statements of 70_reset_and_hazards.md: what a reset sets, keeps and calls (O59), and what loading a
cartridge leaves (O60). -/

namespace Sys2Proof.Proofs

open Sys2Proof.Machine Sys2Proof.Laws

/-! ### Reset -/

theorem exec_reset (s : State) : exec .reset s = .next (s.resetBlock.replied .done) := rfl

/-- R501: the two calls, newest first, and the reply are all a reset changes of the environment (log 22). -/
theorem resetBlock_replied_env (s : State) (r : Reply) : (s.resetBlock.replied r).env =
    { s.env with events := .setReset true :: .setBusRequest false :: s.env.events, reply := r } := rfl

theorem vdpReset_r (i : Fin 32) : VdpState.reset.r i = 0 := Vector.getElem_replicate i.isLt

theorem vdpReset_cram (i : Fin 64) : VdpState.reset.cram[i] = 0 := Vector.getElem_replicate i.isLt

theorem vdpReset_vsram (i : Fin 64) : VdpState.reset.vsram[i] = 0 := Vector.getElem_replicate i.isLt

theorem vdpReset_fifo (i : Fin 4) : VdpState.reset.fifo[i] = 0 := Vector.getElem_replicate i.isLt

theorem framebufferReset_pixel (y : Fin 240) (x : Fin 320) : Framebuffer.reset[y][x] = 0 := by
  have hrow : Framebuffer.reset[y] = Vector.replicate 320 0 := Vector.getElem_replicate y.isLt
  rw [hrow]
  exact Vector.getElem_replicate x.isLt

/-- Settles O59: the RAMs are the empty memory, the arrays are cell by cell the reset value, and every other element is
the one the reset block writes. -/
theorem resetSetsEverything : Obligations.ResetSetsEverything := by
  intro s
  refine ⟨_, exec_reset s, rfl, rfl, ?wram, ?sram, rfl, rfl, rfl, vdpReset_r, ?vram, vdpReset_cram, vdpReset_vsram,
    ?satCache, vdpReset_fifo, rfl, rfl, rfl, rfl, rfl, rfl, rfl, rfl, rfl, rfl, rfl, framebufferReset_pixel, rfl, ?env⟩
  case wram | sram | vram | satCache => exact read_nil
  case env => exact resetBlock_replied_env s .done

/-! ### Loading a cartridge -/

/-- R502: an image that does not fit is reported and nothing else changes (log 13). -/
theorem exec_loadCartridge_tooLarge (s : State) {blob : List Byte} (h : 0x400000 < blob.length) :
    exec (.loadCartridge blob) s = .next (s.replied .tooLarge) := if_pos h

/-- R502: an image that fits is loaded after the reset. -/
theorem exec_loadCartridge_loaded (s : State) {blob : List Byte} (h : blob.length ≤ 0x400000) :
    exec (.loadCartridge blob) s = .next ((s.loadBlob blob).replied .loaded) := if_neg (Nat.not_lt.mpr h)

@[simp] theorem loadBlob_romSize (s : State) (blob : List Byte) : (s.loadBlob blob).bus.romSize = blob.length := rfl

/-- The image stands in ROM from index 0, and the rest of ROM is 0. -/
@[simp] theorem loadBlob_rom_read (s : State) (blob : List Byte) (k : Nat) :
    (s.loadBlob blob).bus.rom.read k = blob.getD k 0 :=
  (read_ofBytes blob 0 k).trans (if_pos (Nat.zero_le k))

/-- The ROM's size check and its cell together read the image with 0xFF past its end (R201). -/
theorem ite_length_getD_zero (blob : List Byte) (k : Nat) :
    (if k < blob.length then blob.getD k 0 else 0xFF) = blob.getD k 0xFF := by
  split
  · rw [List.getD_eq_getElem _ _ ‹_›, List.getD_eq_getElem _ _ ‹_›]
  · rw [List.getD_eq_default _ _ (Nat.le_of_not_lt ‹_›)]

/-- A ROM read after a load gives the image's byte, and 0xFF past the image. -/
theorem regionRom_read_loaded {t : State} {blob : List Byte} (hsize : t.bus.romSize = blob.length)
    (hrom : ∀ k, t.bus.rom.read k = blob.getD k 0) {a : Addr} (ha : a.toNat < 0x400000) :
    exec (.regionRom a .read) t = .next (t.replied (.byte (blob.getD a.toNat 0xFF))) := by
  have hindex : (a &&& 0x3FFFFF).toNat = a.toNat := by rw [toNat_and_romMask, Nat.mod_eq_of_lt ha]
  obtain ⟨hread, -⟩ := romRegions t a 0
  rw [hread _ List.mem_cons_self, hindex, hsize, hrom, ite_length_getD_zero]

/-- Settles O60: the size check refuses the image or loads it after the reset, and the loaded ROM reads back by O14's
rule. -/
theorem loadCartridge : Obligations.LoadCartridge := by
  intro s blob
  refine ⟨exec_loadCartridge_tooLarge s, fun hsize => ?_⟩
  refine ⟨_, _, exec_reset s, exec_loadCartridge_loaded s hsize, rfl, loadBlob_rom_read s blob, fun a ha => ?_⟩
  exact regionRom_read_loaded (loadBlob_romSize s blob) (loadBlob_rom_read s blob) ha

end Sys2Proof.Proofs
end
